-- ==== Sys2Proof/Word.lean ====
section
/-! DEFINITION. The two widths of the frame engine: a frame byte and a 16-bit register (00_scope R8). -/

namespace Sys2Proof

/-- A frame byte, a device address, a function code, an error code or a byte count: 8 bits (00_scope R8). -/
abbrev Byte := BitVec 8

/-- A register, a register address, a register count or the checksum: 16 bits (00_scope R8). -/
abbrev Half := BitVec 16

end Sys2Proof
end

