-- ==== Sys2Proof/Machine/Regs.lean ====
section
/-! DEFINITION. The kinds of data the engine's channels hold, and the registers the spec leaves unspecified at reset (10_state R22 to R30, R40). -/

namespace Sys2Proof.Machine

/-- `byteOrder`, one bit: LowHigh = 0, HighLow = 1 (00_scope R7, 20_memory R60). -/
inductive ByteOrder where
  | lowHigh
  | highLow
  deriving DecidableEq, Repr, Inhabited

/-- `registerBase`, an opaque token: never compared or added to, only passed on (20_memory R52, D5). -/
structure BaseToken where
  id : Nat
  deriving DecidableEq, Repr, Inhabited

/-- Why a frame is not valid (41_validator, verdict reasons). -/
inductive Reason where
  | tooShort
  | length
  | crc
  | unsupportedFc
  deriving DecidableEq, Repr, Inhabited

/-- The verdict of `validateRequest` and `validateResponse` (41_validator R140, R150). -/
inductive Verdict where
  | valid
  | invalid (r : Reason)
  deriving DecidableEq, Repr, Inhabited

/-- The answer of `classifyRequest` (41_validator R141). -/
inductive RequestClass where
  | valid
  | unsupported
  | invalid (r : Reason)
  deriving DecidableEq, Repr

/-- RES_REASON: MALFORMED_<reason>, NOT_ADDRESSED or BROADCAST (10_state R27).
A diagnostic only: no statement rests on its value (D38). -/
inductive SilenceReason where
  | malformed (r : Reason)
  | notAddressed
  | broadcast
  deriving DecidableEq, Repr, Inhabited

/-- The names of the message table (44_response_decoder R259, 30_encoding R96, R97). -/
inductive ErrorMessage where
  | illegalFunction
  | illegalDataAddress
  | illegalDataValue
  | slaveDeviceFailure
  | acknowledge
  | slaveDeviceBusy
  | memoryParityError
  | unknownError
  deriving DecidableEq, Repr, Inhabited

/-- The record `decodeFields` gives (44_response_decoder R252 to R258). -/
inductive Record where
  | read (address fc byteCount : Byte) (values : List Half)
  | writeSingle (address fc : Byte) (register value : Half)
  | writeMultiple (address fc : Byte) (start registerCount : Half)
  | error (address originalFc : Byte) (message : ErrorMessage) (rawCode : Byte)
  | unrecognized (address fc : Byte)
  | malformed
  deriving DecidableEq, Repr, Inhabited

/-- RES_RECORD: the outcomes of DRSP (44_response_decoder R251) and the bare record of DFLD (R252). -/
inductive DecoderOutcome where
  | frameInvalid (r : Reason)
  | checksumMismatch
  | decoded (r : Record)
  | fields (r : Record)
  deriving DecidableEq, Repr, Inhabited

/-- The registers whose reset value the spec leaves unspecified (10_state R40), each under the spec's name. -/
structure Regs where
  /-- OP, the selector (10_state R22). -/
  op : Byte
  /-- IN, the frame or byte string operand (R23). -/
  inp : List Byte
  /-- CFG_DEVADDR (R24). -/
  cfgDevAddr : Byte
  /-- CFG_TOTAL (R24). -/
  cfgTotal : Half
  /-- CFG_ORDER (R24). -/
  cfgOrder : ByteOrder
  /-- CFG_BASE (R24). -/
  cfgBase : BaseToken
  /-- B_ADDR (R25). -/
  bAddr : Byte
  /-- B_START (R25). -/
  bStart : Half
  /-- B_COUNT (R25). -/
  bCount : Half
  /-- B_VALUE (R25). -/
  bValue : Half
  /-- B_BC (R25). -/
  bBc : Byte
  /-- B_VALUES (R25). -/
  bValues : List Half
  /-- RES_FRAME (R27). -/
  resFrame : List Byte
  /-- RES_REASON (R27). -/
  resReason : SilenceReason
  /-- RES_VERDICT (R27). -/
  resVerdict : Verdict
  /-- RES_CRC (R27). -/
  resCrc : Half
  /-- RES_RECORD (R27). -/
  resRecord : DecoderOutcome
  /-- RES_TEXT (R27). -/
  resText : List Char
  /-- ACC, the checksum accumulator (R28). -/
  acc : Half
  /-- L_ADDR (R29). -/
  lAddr : Byte
  /-- L_FC (R29). -/
  lFc : Byte
  /-- L_BCAST (R29). -/
  lBcast : Bool
  /-- L_START (R29). -/
  lStart : Half
  /-- L_COUNT (R29). -/
  lCount : Half
  /-- L_BC (R29). -/
  lBc : Byte
  /-- PAYLOAD (R30). -/
  payload : List Byte
  deriving DecidableEq, Repr, Inhabited

end Sys2Proof.Machine
end

