-- ==== Sys2Proof/Config.lean ====
section
/-! DEFINITION. What is fixed for one engine instance (00_scope R7, 10_state R21), and the free value of what the spec leaves unspecified. -/

namespace Sys2Proof

/-- P_UNSUPPORTED_FC_POLICY (00_scope R7, conflict C2, D7). -/
inductive UnsupportedFcPolicy where
  | illegalFunction
  | drop
  deriving DecidableEq, Repr

/-- P_WS_BUILD_FC, 0x10 or 0x06 (00_scope R7, conflict C3, D8). -/
inductive WsBuildFc where
  | fc10
  | fc06
  deriving DecidableEq, Repr

/-- P_WM_RANGE_COUNT (00_scope R7, conflict C9, D9). -/
inductive WmRangeCount where
  | byteCount
  | byteCountDiv2
  deriving DecidableEq, Repr

/-- The instance parameters (00_scope R7). A state carries those of its instance, so that a statement
about every state is one about every instance; no step changes them (10_state R21). -/
structure Params where
  policy : UnsupportedFcPolicy
  wsBuildFc : WsBuildFc
  wmRangeCount : WmRangeCount
  /-- P_MAX_FRAME_LEN: `none` is unbounded (D3). -/
  maxFrameLen : Option Nat
  deriving DecidableEq, Repr

/-- The defaults of 00_scope R7. -/
def Params.default : Params :=
  { policy := .illegalFunction, wsBuildFc := .fc10, wmRangeCount := .byteCount, maxFrameLen := none }

/-- FREE VALUE (log 8): what the unspecified registers hold after the `n`-th event that leaves them
unspecified (an accepted issue, a reset). It has no body: nothing can be proved of it
(10_state R27, R29, R40; 93_implementation_defined "any value"). -/
opaque Config.unspecified : Nat → Machine.Regs

end Sys2Proof
end

