-- ==== Sys2Proof/Machine/Operands.lean ====
section
/-! DEFINITION. Bytes, fields and operand forms: every assembly of a multi-byte field, every byte swap (00_scope R9, R10; 20_memory R57 to R61; 30_encoding R91 to R94). -/

namespace Sys2Proof.Machine

/-- `lo8(v) = v[7:0]` (00_scope R9). -/
def lo8 (v : Half) : Byte := v.extractLsb' 0 8

/-- `hi8(v) = v[15:8]` (00_scope R9). -/
def hi8 (v : Half) : Byte := v.extractLsb' 8 8

/-- `be16(x, y) = x*256 + y` (00_scope R10). -/
def be16 (x y : Byte) : Half := BitVec.ofNat 16 (x.toNat * 256 + y.toNat)

/-- `le16(x, y) = y*256 + x` (00_scope R10). -/
def le16 (x y : Byte) : Half := BitVec.ofNat 16 (y.toNat * 256 + x.toNat)

/-- `F[i]`. Every rule checks the length before it reads (20_memory R53), so the 0 read beyond the
frame is never looked at. -/
def byteAt (F : List Byte) (i : Nat) : Byte := F.getD i 0#8

/-- `F[a..b)` (00_scope R10). -/
def slice (F : List Byte) (a b : Nat) : List Byte := (F.take b).drop a

/-- The two wire bytes of a 16-bit value under an order (30_encoding R92). -/
def encodeValue (o : ByteOrder) (v : Half) : List Byte :=
  match o with
  | .lowHigh => [lo8 v, hi8 v]
  | .highLow => [hi8 v, lo8 v]

/-- The value of two wire bytes under an order (30_encoding R92). -/
def decodeValue (o : ByteOrder) (x y : Byte) : Half :=
  match o with
  | .lowHigh => le16 x y
  | .highLow => be16 x y

/-- The wire bytes of a sequence of values (43_master_builder R226, the loop). -/
def encodeValues (o : ByteOrder) (vs : List Half) : List Byte := vs.flatMap (encodeValue o)

/-- The values of a data region; an odd last byte is ignored (44_response_decoder R253, D33). -/
def decodeValues (o : ByteOrder) : List Byte → List Half
  | x :: y :: rest => decodeValue o x y :: decodeValues o rest
  | _ => []

/-- `swapPairs(B, k)`: exchange B[2i] and B[2i+1] for i in 0..k-1 (42_slave_processor R175). -/
def swapPairs : Nat → List Byte → List Byte
  | k + 1, x :: y :: rest => y :: x :: swapPairs k rest
  | _, B => B

/-- The payload as the store sees it, or as the wire carries it: swapped under HighLow only
(42_slave_processor R183, R184, R186). -/
def orderPayload (o : ByteOrder) (k : Nat) (B : List Byte) : List Byte :=
  match o with
  | .lowHigh => B
  | .highLow => swapPairs k B

/-- The two hexadecimal digits of a byte, upper case (44_response_decoder R270, `hex2`). -/
def hexDigit (n : Nat) : Char :=
  ['0', '1', '2', '3', '4', '5', '6', '7', '8', '9', 'A', 'B', 'C', 'D', 'E', 'F'].getD n '0'

/-- `hex2(b)`: the digits of b[7:4] then b[3:0] (44_response_decoder R270). -/
def hex2 (b : Byte) : List Char := [hexDigit (b.toNat / 16), hexDigit (b.toNat % 16)]

/-- `toHexString(F)`: one space between neighbouring bytes, none at either end
(44_response_decoder R270, D23). -/
def toHexString : List Byte → List Char
  | [] => []
  | [b] => hex2 b
  | b :: rest => hex2 b ++ ' ' :: toHexString rest

end Sys2Proof.Machine
end

