-- ==== Sys2Proof/Machine/Checksum.lean ====
section
/-! DEFINITION. The Modbus CRC-16: the accumulator's rule, sealing a frame, verifying one (40_crc R130, R131, R133). -/

namespace Sys2Proof.Machine

/-- One of the 8 rounds on ACC (40_crc R130): shift right, XOR 0xA001 when the bit shifted out was 1. -/
def crcRound (acc : Half) : Half :=
  if acc.getLsbD 0 then (acc >>> 1) ^^^ 0xA001#16 else acc >>> 1

/-- The 8 rounds (40_crc R130). -/
def crcRounds (acc : Half) : Half :=
  crcRound (crcRound (crcRound (crcRound (crcRound (crcRound (crcRound (crcRound acc)))))))

/-- ACC after one byte: the low 8 bits are replaced, the high 8 untouched, then the rounds (40_crc R130). -/
def crcByte (acc : Half) (b : Byte) : Half := crcRounds (hi8 acc ++ (lo8 acc ^^^ b))

/-- ACC after a byte sequence, from a given ACC. -/
def crcFrom (acc : Half) (B : List Byte) : Half := B.foldl crcByte acc

/-- `CRC(B)` (40_crc R130). -/
def crc (B : List Byte) : Half := crcFrom 0xFFFF#16 B

/-- `seal(B)`: the checksum appended low byte first (40_crc R131). -/
def sealed (B : List Byte) : List Byte := B ++ [lo8 (crc B), hi8 (crc B)]

/-- `F[0..len(F)-2)`: what the checksum covers (00_scope R10). -/
def covered (F : List Byte) : List Byte := F.take (F.length - 2)

/-- `crcOk(F)` (40_crc R133). -/
def crcOk (F : List Byte) : Bool :=
  decide (2 ≤ F.length)
    && byteAt F (F.length - 2) == lo8 (crc (covered F))
    && byteAt F (F.length - 1) == hi8 (crc (covered F))

end Sys2Proof.Machine
end

