-- ==== Sys2Proof/Machine/Flags.lean ====
section
/-! DEFINITION. The engine keeps no flags (10_state R33); its status outputs are verdicts. The validator's checks and the classification PROC makes (41_validator R140, R141, R150), and the message table (44_response_decoder R259). -/

namespace Sys2Proof.Machine

/-- Bit 7 of byte 1 (30_encoding R82). -/
def bit7 (fc : Byte) : Bool := fc.getLsbD 7

/-- The closed set of request function codes (30_encoding R81). -/
def supportedFc (fc : Byte) : Bool := fc == 0x03#8 || fc == 0x04#8 || fc == 0x06#8 || fc == 0x10#8

/-- The error function codes the response validator accepts (30_encoding R82). -/
def errorFc (fc : Byte) : Bool := fc == 0x83#8 || fc == 0x84#8 || fc == 0x86#8 || fc == 0x90#8

/-- The length part of `validateRequest`: `none` when the length fits the function code
(41_validator R140). -/
def requestLengthFault (F : List Byte) : Option Reason :=
  if F.length < 2 then some .tooShort
  else
    let fc := byteAt F 1
    if fc == 0x03#8 || fc == 0x04#8 || fc == 0x06#8 then
      if F.length = 8 then none else some .length
    else if fc == 0x10#8 then
      if F.length < 9 then some .length
      else if F.length = 9 + (byteAt F 6).toNat then none else some .length
    else some .unsupportedFc

/-- `validateRequest(F)` (41_validator R140). -/
def validateRequest (F : List Byte) : Verdict :=
  match requestLengthFault F with
  | some r => .invalid r
  | none => if crcOk F then .valid else .invalid .crc

/-- `classifyRequest(F)` (41_validator R141, conflict C2). -/
def classifyRequest (p : UnsupportedFcPolicy) (F : List Byte) : RequestClass :=
  match validateRequest F with
  | .valid => .valid
  | .invalid .unsupportedFc =>
    match p with
    | .drop => .invalid .unsupportedFc
    | .illegalFunction =>
      if F.length < 4 then .invalid .length
      else if crcOk F then .unsupported
      else .invalid .crc
  | .invalid r => .invalid r

/-- `validateResponse(F)`; it examines no checksum (41_validator R150, conflict C11). -/
def validateResponse (F : List Byte) : Verdict :=
  if F.length < 2 then .invalid .tooShort
  else
    let fc := byteAt F 1
    if fc == 0x03#8 || fc == 0x04#8 then
      if F.length < 3 then .invalid .length
      else if F.length = 5 + (byteAt F 2).toNat then .valid else .invalid .length
    else if fc == 0x06#8 || fc == 0x10#8 then
      if F.length = 8 then .valid else .invalid .length
    else if errorFc fc then
      if F.length = 5 then .valid else .invalid .length
    else .invalid .unsupportedFc

/-- Whether `validateRequest` came to its checksum test, and so ran ACC (41_validator R140, 10_state R28). -/
def Verdict.ranChecksum : Verdict → Bool
  | .valid => true
  | .invalid .crc => true
  | .invalid _ => false

/-- Whether `classifyRequest` came to a checksum test (41_validator R141, 10_state R28). -/
def RequestClass.ranChecksum : RequestClass → Bool
  | .valid => true
  | .unsupported => true
  | .invalid .crc => true
  | .invalid _ => false

/-- ACC after a check of `F` that ran the checksum or did not (10_state R28; log 16). -/
def accAfterCheck (ran : Bool) (F : List Byte) (acc : Half) : Half :=
  if ran then crc (covered F) else acc

/-- `messageOf(code)` (44_response_decoder R259). -/
def messageOf (code : Byte) : ErrorMessage :=
  if code == 0x01#8 then .illegalFunction
  else if code == 0x02#8 then .illegalDataAddress
  else if code == 0x03#8 then .illegalDataValue
  else if code == 0x04#8 then .slaveDeviceFailure
  else if code == 0x05#8 then .acknowledge
  else if code == 0x06#8 then .slaveDeviceBusy
  else if code == 0x08#8 then .memoryParityError
  else .unknownError

end Sys2Proof.Machine
end

