-- ==== Sys2Proof/Syntax.lean ====
section
/-! DEFINITION. The instructions: one constructor for each of the 27 rows of opcode_table.json, with the operand fields its encoding gives it. -/

namespace Sys2Proof

/-- Three kinds of rows: host operations, selected by OP, whose operands stand in the input channel
(30_encoding R110, R111); request and response formats, selected by byte 1 of a frame, whose operands
are the frame's fields (30_encoding R83 to R90); and the error frame PROC emits
(42_slave_processor R190). -/
inductive Instr where
  /-- CRC, OP 0x01 (40_crc R132). -/
  | crc
  /-- VREQ, OP 0x02 (41_validator R142). -/
  | vreq
  /-- VRSP, OP 0x03 (41_validator R151). -/
  | vrsp
  /-- PROC, OP 0x04 (42_slave_processor R170, R175). -/
  | proc
  /-- BRHR, OP 0x05 (43_master_builder R222). -/
  | brhr
  /-- BRIR, OP 0x06 (43_master_builder R223). -/
  | brir
  /-- BWSR, OP 0x07 (43_master_builder R224). -/
  | bwsr
  /-- BWMR, OP 0x08 (43_master_builder R226, R227). -/
  | bwmr
  /-- DRSP, OP 0x09 (44_response_decoder R250). -/
  | drsp
  /-- DFLD, OP 0x0A (44_response_decoder R252). -/
  | dfld
  /-- HEX, OP 0x0B (44_response_decoder R270). -/
  | hex
  /-- RESERVED_OP, OP 0x00 or 0x0C to 0xFF (30_encoding R111). -/
  | reservedOp (op : Byte)
  /-- REQ_READ_HOLDING, FC 0x03 (30_encoding R84; 42_slave_processor R183). -/
  | reqReadHolding (addr : Byte) (start count : Half)
  /-- REQ_READ_INPUT, FC 0x04 (30_encoding R84; 42_slave_processor R183). -/
  | reqReadInput (addr : Byte) (start count : Half)
  /-- REQ_WRITE_SINGLE, FC 0x06, with value byte 0 and value byte 1 as received (30_encoding R85;
  42_slave_processor R184). -/
  | reqWriteSingle (addr : Byte) (reg : Half) (value0 value1 : Byte)
  /-- REQ_WRITE_MULTIPLE, FC 0x10 (30_encoding R86; 42_slave_processor R186). -/
  | reqWriteMultiple (addr : Byte) (start registerCount : Half) (byteCount : Byte) (data : List Byte)
  /-- REQ_UNSUPPORTED, any other FC; `body` is what stands between byte 1 and the checksum
  (30_encoding R98; 42_slave_processor R179). -/
  | reqUnsupported (addr fc : Byte) (body : List Byte)
  /-- RSP_READ, FC 0x03 or 0x04 (30_encoding R87; 44_response_decoder R253). -/
  | rspRead (addr fc byteCount : Byte) (data : List Byte)
  /-- RSP_WRITE_SINGLE, FC 0x06 (30_encoding R88; 44_response_decoder R254). -/
  | rspWriteSingle (addr : Byte) (reg : Half) (value0 value1 : Byte)
  /-- RSP_WRITE_MULTIPLE, FC 0x10 (30_encoding R89; 44_response_decoder R255). -/
  | rspWriteMultiple (addr : Byte) (start registerCount : Half)
  /-- RSP_ERROR_83 (30_encoding R90; 44_response_decoder R256). -/
  | rspError83 (addr code : Byte)
  /-- RSP_ERROR_84 (30_encoding R90; 44_response_decoder R256). -/
  | rspError84 (addr code : Byte)
  /-- RSP_ERROR_86 (30_encoding R90; 44_response_decoder R256). -/
  | rspError86 (addr code : Byte)
  /-- RSP_ERROR_90 (30_encoding R90; 44_response_decoder R256). -/
  | rspError90 (addr code : Byte)
  /-- RSP_ERROR_OTHER, any other byte 1 with bit 7 set (30_encoding R83; 44_response_decoder R256). -/
  | rspErrorOther (addr fc code : Byte)
  /-- RSP_UNRECOGNIZED, any other byte 1 with bit 7 clear (30_encoding R83; 44_response_decoder R257). -/
  | rspUnrecognized (addr fc : Byte)
  /-- ERROR_FRAME_EMIT; `efc` is byte 1 of the frame, the request's function code OR 0x80
  (42_slave_processor R190). -/
  | errorFrameEmit (addr efc code : Byte)
  deriving DecidableEq, Repr

/-- The encoding an instruction belongs to: the same byte means another thing in each (30_encoding R83,
R110). -/
inductive Space where
  /-- The 8-bit selector OP. -/
  | selector
  /-- A request frame, read by byte 1. -/
  | request
  /-- A response frame, read by byte 1. -/
  | response
  /-- An error frame that PROC emits. -/
  | emitted
  deriving DecidableEq, Repr

/-- The encoding of an instruction. -/
def Instr.space : Instr → Space
  | .crc => .selector
  | .vreq => .selector
  | .vrsp => .selector
  | .proc => .selector
  | .brhr => .selector
  | .brir => .selector
  | .bwsr => .selector
  | .bwmr => .selector
  | .drsp => .selector
  | .dfld => .selector
  | .hex => .selector
  | .reservedOp _ => .selector
  | .reqReadHolding _ _ _ => .request
  | .reqReadInput _ _ _ => .request
  | .reqWriteSingle _ _ _ _ => .request
  | .reqWriteMultiple _ _ _ _ _ => .request
  | .reqUnsupported _ _ _ => .request
  | .rspRead _ _ _ _ => .response
  | .rspWriteSingle _ _ _ _ => .response
  | .rspWriteMultiple _ _ _ => .response
  | .rspError83 _ _ => .response
  | .rspError84 _ _ => .response
  | .rspError86 _ _ => .response
  | .rspError90 _ _ => .response
  | .rspErrorOther _ _ _ => .response
  | .rspUnrecognized _ _ => .response
  | .errorFrameEmit _ _ _ => .emitted

end Sys2Proof
end

