-- ==== Sys2Proof/WellFormed.lean ====
section
/-! DEFINITION. Which instructions are well formed: the side conditions of the opcode table's rows that the operand widths do not already say. -/

namespace Sys2Proof

/-- The reserved selectors (30_encoding R111). -/
def reservedSelector (op : Byte) : Bool := op.toNat = 0 || decide (0x0C ≤ op.toNat)

/-- An instruction is well formed when its fields are those of a frame, or of a selector, of its row. -/
def Instr.wellFormed : Instr → Bool
  | .crc => true
  | .vreq => true
  | .vrsp => true
  | .proc => true
  | .brhr => true
  | .brir => true
  | .bwsr => true
  | .bwmr => true
  | .drsp => true
  | .dfld => true
  | .hex => true
  | .reservedOp op => reservedSelector op
  | .reqReadHolding _ _ _ => true
  | .reqReadInput _ _ _ => true
  | .reqWriteSingle _ _ _ _ => true
  | .reqWriteMultiple _ _ _ bc data => data.length == bc.toNat
  | .reqUnsupported _ fc _ => !Machine.supportedFc fc
  | .rspRead _ fc bc data => (fc == 0x03#8 || fc == 0x04#8) && data.length == bc.toNat
  | .rspWriteSingle _ _ _ _ => true
  | .rspWriteMultiple _ _ _ => true
  | .rspError83 _ _ => true
  | .rspError84 _ _ => true
  | .rspError86 _ _ => true
  | .rspError90 _ _ => true
  | .rspErrorOther _ fc _ => Machine.bit7 fc && !Machine.errorFc fc
  | .rspUnrecognized _ fc => !Machine.bit7 fc && !Machine.supportedFc fc
  | .errorFrameEmit _ efc _ => Machine.bit7 efc

end Sys2Proof
end

