-- ==== Sys2Proof/Decode.lean ====
section
/-! DEFINITION. The decoder of each encoding, total on any bytes and rejecting by name, the encoder, and the reading of the opcode table's words (30_encoding R81 to R95, R110, R111). -/

namespace Sys2Proof

open Machine

/-- Why bytes are no instruction of an encoding. -/
inductive DecodeError where
  /-- A selector is one byte (30_encoding R110). -/
  | notOneByte
  /-- A request shorter than 2 bytes (30_encoding R80). -/
  | tooShort
  /-- A request whose length does not fit its function code (30_encoding R95; for an unsupported code,
  shorter than 4: 41_validator R141). -/
  | length
  /-- A request or an emitted error frame with a wrong checksum (30_encoding R80). -/
  | checksum
  /-- A response that lacks a field of its arm (44_response_decoder R258). -/
  | malformed
  /-- No error frame: not 5 bytes, or bit 7 of byte 1 clear (30_encoding R90). -/
  | notAnErrorFrame
  deriving DecidableEq, Repr

/-- The operation of a selector; every other value is reserved (30_encoding R110, R111). -/
def decodeOp (op : Byte) : Instr :=
  if op == 0x01#8 then .crc
  else if op == 0x02#8 then .vreq
  else if op == 0x03#8 then .vrsp
  else if op == 0x04#8 then .proc
  else if op == 0x05#8 then .brhr
  else if op == 0x06#8 then .brir
  else if op == 0x07#8 then .bwsr
  else if op == 0x08#8 then .bwmr
  else if op == 0x09#8 then .drsp
  else if op == 0x0A#8 then .dfld
  else if op == 0x0B#8 then .hex
  else .reservedOp op

/-- A selector's bytes: exactly one. -/
def decodeSelector : List Byte → Except DecodeError Instr
  | [op] => .ok (decodeOp op)
  | _ => .error .notOneByte

/-- The fields of a request, its length already checked (30_encoding R84 to R86, R98). -/
def requestFields (F : List Byte) : Instr :=
  let addr := byteAt F 0
  let fc := byteAt F 1
  let word := be16 (byteAt F 2) (byteAt F 3)
  if fc == 0x03#8 then .reqReadHolding addr word (be16 (byteAt F 4) (byteAt F 5))
  else if fc == 0x04#8 then .reqReadInput addr word (be16 (byteAt F 4) (byteAt F 5))
  else if fc == 0x06#8 then .reqWriteSingle addr word (byteAt F 4) (byteAt F 5)
  else if fc == 0x10#8 then
    .reqWriteMultiple addr word (le16 (byteAt F 4) (byteAt F 5)) (byteAt F 6)
      (slice F 7 (7 + (byteAt F 6).toNat))
  else .reqUnsupported addr fc (slice F 2 (F.length - 2))

/-- Whether the length fits the function code (30_encoding R95); an unsupported code needs 4 bytes
(41_validator R141). -/
def requestLengthFits (F : List Byte) : Bool :=
  let fc := byteAt F 1
  if fc == 0x03#8 || fc == 0x04#8 || fc == 0x06#8 then F.length == 8
  else if fc == 0x10#8 then decide (9 ≤ F.length) && F.length == 9 + (byteAt F 6).toNat
  else decide (4 ≤ F.length)

/-- A request frame (30_encoding R84 to R86, R98). -/
def decodeRequest (F : List Byte) : Except DecodeError Instr :=
  if F.length < 2 then .error .tooShort
  else if !requestLengthFits F then .error .length
  else if !crcOk F then .error .checksum
  else .ok (requestFields F)

/-- The row of an error response (30_encoding R82, R90). -/
def errorRow (addr fc code : Byte) : Instr :=
  if fc == 0x83#8 then .rspError83 addr code
  else if fc == 0x84#8 then .rspError84 addr code
  else if fc == 0x86#8 then .rspError86 addr code
  else if fc == 0x90#8 then .rspError90 addr code
  else .rspErrorOther addr fc code

/-- A response frame as the decoder reads it: no length or checksum is examined beyond the fields it
needs (44_response_decoder R252 to R258). -/
def decodeResponse (F : List Byte) : Except DecodeError Instr :=
  let addr := byteAt F 0
  let fc := byteAt F 1
  if F.length < 2 then .error .malformed
  else if fc == 0x03#8 || fc == 0x04#8 then
    if F.length < 3 then .error .malformed
    else if F.length < 3 + (byteAt F 2).toNat then .error .malformed
    else .ok (.rspRead addr fc (byteAt F 2) (slice F 3 (3 + (byteAt F 2).toNat)))
  else if fc == 0x06#8 then
    if F.length < 6 then .error .malformed
    else .ok (.rspWriteSingle addr (be16 (byteAt F 2) (byteAt F 3)) (byteAt F 4) (byteAt F 5))
  else if fc == 0x10#8 then
    if F.length < 6 then .error .malformed
    else .ok (.rspWriteMultiple addr (be16 (byteAt F 2) (byteAt F 3)) (be16 (byteAt F 4) (byteAt F 5)))
  else if bit7 fc then
    if F.length < 3 then .error .malformed
    else .ok (errorRow addr fc (byteAt F 2))
  else .ok (.rspUnrecognized addr fc)

/-- An error frame as PROC emits it (42_slave_processor R190). -/
def decodeEmitted (F : List Byte) : Except DecodeError Instr :=
  if F.length != 5 || !bit7 (byteAt F 1) then .error .notAnErrorFrame
  else if !crcOk F then .error .checksum
  else .ok (.errorFrameEmit (byteAt F 0) (byteAt F 1) (byteAt F 2))

/-- The decoder of each encoding. -/
def decode : Space → List Byte → Except DecodeError Instr
  | .selector, B => decodeSelector B
  | .request, B => decodeRequest B
  | .response, B => decodeResponse B
  | .emitted, B => decodeEmitted B

/-- The bytes of an instruction: a selector, or the whole frame with its checksum
(30_encoding R84 to R90, R110). -/
def encode : Instr → List Byte
  | .crc => [0x01#8]
  | .vreq => [0x02#8]
  | .vrsp => [0x03#8]
  | .proc => [0x04#8]
  | .brhr => [0x05#8]
  | .brir => [0x06#8]
  | .bwsr => [0x07#8]
  | .bwmr => [0x08#8]
  | .drsp => [0x09#8]
  | .dfld => [0x0A#8]
  | .hex => [0x0B#8]
  | .reservedOp op => [op]
  | .reqReadHolding addr start count => sealed [addr, 0x03#8, hi8 start, lo8 start, hi8 count, lo8 count]
  | .reqReadInput addr start count => sealed [addr, 0x04#8, hi8 start, lo8 start, hi8 count, lo8 count]
  | .reqWriteSingle addr reg v0 v1 => sealed [addr, 0x06#8, hi8 reg, lo8 reg, v0, v1]
  | .reqWriteMultiple addr start rc bc data =>
    sealed ([addr, 0x10#8, hi8 start, lo8 start, lo8 rc, hi8 rc, bc] ++ data)
  | .reqUnsupported addr fc body => sealed ([addr, fc] ++ body)
  | .rspRead addr fc bc data => sealed ([addr, fc, bc] ++ data)
  | .rspWriteSingle addr reg v0 v1 => sealed [addr, 0x06#8, hi8 reg, lo8 reg, v0, v1]
  | .rspWriteMultiple addr start rc => sealed [addr, 0x10#8, hi8 start, lo8 start, hi8 rc, lo8 rc]
  | .rspError83 addr code => sealed [addr, 0x83#8, code]
  | .rspError84 addr code => sealed [addr, 0x84#8, code]
  | .rspError86 addr code => sealed [addr, 0x86#8, code]
  | .rspError90 addr code => sealed [addr, 0x90#8, code]
  | .rspErrorOther addr fc code => sealed [addr, fc, code]
  | .rspUnrecognized addr fc => sealed [addr, fc]
  | .errorFrameEmit addr efc code => sealed [addr, efc, code]

/-- THE OPCODE TABLE'S WORDS (log 17). A table word has no bit that says which encoding it belongs to:
its low byte is OP for a host operation and byte 1 of a frame for a format row. A word of 8 bits is
read as a selector where OP is an operation, as the one-byte rows of the frame formats where the byte
is a function code of theirs, and as a reserved selector otherwise (a word of no bits is one); the wider
words are the rows that list a length. The other bytes of a frame are 0, and its checksum is the one those bytes need. -/
def tableFrame (nbits w : Nat) : Space × List Byte :=
  let b := BitVec.ofNat 8 w
  if nbits ≤ 8 then
    if b == 0x10#8 then (.request, sealed [0, 0x10#8, 0, 0, 0, 0, 0])
    else if bit7 b then (.response, sealed [0, b, 0])
    else if b == 0x00#8 && nbits != 0 then (.response, sealed [0, 0x00#8])
    else (.selector, [b])
  else if b == 0x10#8 then (.response, sealed [0, 0x10#8, 0, 0, 0, 0])
  else (.request, sealed [0, b, 0, 0, 0, 0])

/-- What the decoder reads from a table word (log 17). -/
def decodeTableWord (nbits w : Nat) : Option Instr :=
  match decode (tableFrame nbits w).1 (tableFrame nbits w).2 with
  | .ok i => some i
  | .error _ => none

end Sys2Proof
end

