-- ==== Sys2Proof/Machine/State.lean ====
section
/-! DEFINITION. The machine's state as plain data, its stops, and the state after reset (10_state, 70_reset_and_hazards R340). -/

namespace Sys2Proof.Machine

/-- PHASE (10_state R31). -/
inductive Phase where
  | idle
  | validate
  | dispatch
  | capIO
  | emit
  deriving DecidableEq, Repr

/-- RES_KIND (10_state R26). -/
inductive ResultKind where
  | none
  | frame
  | noResponse
  | verdict
  | checksum
  | record
  | text
  | refused
  deriving DecidableEq, Repr

/-- CAP_REQ's two forms (10_state R32). -/
inductive CapReq where
  | read (base : BaseToken) (offset count : Half)
  | write (base : BaseToken) (offset count : Half) (bytes : List Byte)
  deriving DecidableEq, Repr

/-- What a capability returns: the bytes (a write returns none that are looked at) and the code. The
code is a Nat so that a capability can break its contract (20_memory R55, R56; 60_exceptions R305). -/
structure CapAnswer where
  bytes : List Byte
  code : Nat
  deriving DecidableEq, Repr

/-- The outcome phase EMIT is to write: R175's local `R`, the operands of a `raise` (00_scope R12), or
the record of the response frame in IN (log 11). -/
inductive Pending where
  | respond (R : List Byte)
  | error (addr fc code : Byte)
  | suppress (reason : SilenceReason)
  | decode
  deriving DecidableEq, Repr

/-- One operation as the host issues it (30_encoding R110). Builder operands are numbers of any size,
since one that does not fit its width is refused at issue (10_state R25). The defaults of `total` and
`order` are those of 00_scope R7. R7 gives deviceAddress and registerBase no default: that a command
written without them has `devAddr` 0 and `base` token 0 is the model's shorthand (DESIGN CHOICE, log 24),
as are the builder operands and the frame left out. -/
structure Command where
  op : Byte
  frame : List Byte := []
  devAddr : Byte := 0
  total : Half := 0xFFFF#16
  order : ByteOrder := .lowHigh
  base : BaseToken := ⟨0⟩
  addr : Nat := 0
  start : Nat := 0
  count : Nat := 0
  value : Nat := 0
  byteCount : Nat := 0
  values : List Nat := []
  deriving DecidableEq, Repr

/-- What the outside world does in one step (60_exceptions R330; 70_reset_and_hazards R342; log 2). -/
inductive HostEvent where
  /-- Nothing: the engine goes on by itself. -/
  | quiet
  /-- The host issues an operation. -/
  | issue (c : Command)
  /-- The capability called returns. -/
  | answer (a : CapAnswer)
  /-- Reset. -/
  | reset
  deriving DecidableEq, Repr

/-- The machine's state. `toRegs` are the registers whose reset value the spec leaves unspecified. -/
structure State extends Regs where
  /-- PHASE (10_state R31). -/
  phase : Phase
  /-- RES_KIND (10_state R26). -/
  resKind : ResultKind
  /-- CAP_REQ (10_state R32). -/
  capReq : Option CapReq
  /-- The pair `(bytes, e)` the capability returned for the call in flight (42_slave_processor R175). -/
  capAns : Option CapAnswer
  /-- The outcome phase EMIT is to write (log 7). -/
  pending : Option Pending
  /-- The instance's parameters, which no step changes (10_state R21; log 1). -/
  params : Params
  /-- What the outside world is going to do, one event a step (log 2). -/
  host : List HostEvent
  /-- How many free values have been drawn (log 8). -/
  draws : Nat
  deriving DecidableEq, Repr

/-- Why the machine stops. -/
inductive Fault where
  /-- Raised by the request rows of PROC in phase CAP_IO: the read capability returned code 0 and a
  length other than 2n, or a capability returned a code wider than 8 bits. SAFE: the spec asks for a
  fault and no result (60_exceptions R305). -/
  | capabilityContract
  /-- Raised by PROC, the request rows and the step function in a combination of PHASE, IN and pending
  outcome that no operation sets (10_state R31). SAFE: no run reaches it (log 12). -/
  | outOfSequence
  deriving DecidableEq, Repr

/-- Why an instruction has no meaning. A command the engine REFUSES is none of these: it answers with
RES_KIND = REFUSED and goes on (60_exceptions R304; log 14). -/
inductive Refusal where
  /-- An instruction not modelled yet; raised by no arm. SAFE. -/
  | notModelled (mnemonic : String)
  deriving DecidableEq, Repr

/-- The registers' named values at reset: the spec leaves them unspecified and unobservable
(10_state R40; log 5). -/
def Regs.reset : Regs :=
  { op := 0, inp := [], cfgDevAddr := 0, cfgTotal := 0, cfgOrder := .lowHigh, cfgBase := ⟨0⟩,
    bAddr := 0, bStart := 0, bCount := 0, bValue := 0, bBc := 0, bValues := [],
    resFrame := [], resReason := .notAddressed, resVerdict := .valid, resCrc := 0,
    resRecord := .checksumMismatch, resText := [],
    acc := 0, lAddr := 0, lFc := 0, lBcast := false, lStart := 0, lCount := 0, lBc := 0, payload := [] }

/-- The machine right after reset: IDLE, no result, no call in flight (10_state R40), an instance with
the default parameters (00_scope R7), and nothing from the host yet. -/
def State.reset : State :=
  { toRegs := Regs.reset, phase := .idle, resKind := .none, capReq := none, capAns := none,
    pending := none, params := Params.default, host := [], draws := 0 }

end Sys2Proof.Machine
end

