-- ==== Sys2Proof/Machine/Ops.lean ====
section
/-! DEFINITION. The operations the meanings share: refusing, latching a command, raising an outcome, calling a capability and taking its answer, writing a result (00_scope R12; 10_state R22 to R32; 60_exceptions R300 to R305). -/

namespace Sys2Proof.Machine

/-- What a meaning answers. -/
abbrev Result := Host.Outcome State Fault Refusal

/-- REFUSED: RES_KIND, and nothing else, is written (60_exceptions R304, 30_encoding R111). -/
def State.refuse (s : State) : State := { s with resKind := .refused }

/-- The unspecified registers take a free value (10_state R27, R29, R40; log 8). -/
def State.forget (s : State) : State :=
  { s with toRegs := Config.unspecified s.draws, draws := s.draws + 1 }

/-- Reset, in any phase: the operation in flight is abandoned with no result and no call is issued
(70_reset_and_hazards R340, R342; log 15). -/
def State.reboot (s : State) : State :=
  { s.forget with phase := .idle, resKind := .none, capReq := none, capAns := none, pending := none }

/-- The host's list after the event that has been taken. -/
def State.withHost (s : State) (h : List HostEvent) : State := { s with host := h }

/-- `len ≤ P_MAX_FRAME_LEN`, or no bound (00_scope R7, D3). -/
def Params.fits (p : Params) (len : Nat) : Bool :=
  match p.maxFrameLen with
  | none => true
  | some m => decide (len ≤ m)

/-- The operations that take IN (10_state R23, 30_encoding R110). -/
def takesFrame (i : Instr) : Bool := [Instr.crc, Instr.vreq, Instr.vrsp, Instr.proc, Instr.drsp, Instr.dfld, Instr.hex].contains i

/-- The operations that take B_ADDR and B_START: the builders (30_encoding R110). -/
def takesAddrStart (i : Instr) : Bool := [Instr.brhr, Instr.brir, Instr.bwsr, Instr.bwmr].contains i

/-- The operations that take B_COUNT (30_encoding R110). -/
def takesCount (i : Instr) : Bool := [Instr.brhr, Instr.brir, Instr.bwmr].contains i

/-- The operation that takes B_VALUE (30_encoding R110). -/
def takesValue (i : Instr) : Bool := [Instr.bwsr].contains i

/-- The operation that takes B_BC and B_VALUES (30_encoding R110). -/
def takesValues (i : Instr) : Bool := [Instr.bwmr].contains i

/-- A builder's operands fit their widths (43_master_builder R220, D35). -/
def Command.operandsFit (c : Command) : Bool :=
  let i := decodeOp c.op
  (!takesAddrStart i || (decide (c.addr < 256) && decide (c.start < 65536)))
    && (!takesCount i || decide (c.count < 65536))
    && (!takesValue i || decide (c.value < 65536))
    && (!takesValues i || (decide (c.byteCount < 256) && c.values.all (fun v => decide (v < 65536))))

/-- The frame operand is within P_MAX_FRAME_LEN (60_exceptions R304 (4)). -/
def Command.frameFits (p : Params) (c : Command) : Bool :=
  !takesFrame (decodeOp c.op) || Params.fits p c.frame.length

/-- An operation that is not refused at issue (60_exceptions R304 (2), (4)). -/
def Command.accepted (p : Params) (c : Command) : Bool := c.operandsFit && c.frameFits p

/-- The command's operands are latched, and only those the operation takes; what it does not write is
unspecified from here on; RES_KIND becomes NONE (10_state R22 to R27; D37; log 8). -/
def State.accept (c : Command) (s : State) : State :=
  let i := decodeOp c.op
  let u := Config.unspecified s.draws
  { s.forget with
    op := c.op
    inp := if takesFrame i then c.frame else u.inp
    cfgDevAddr := c.devAddr
    cfgTotal := c.total
    cfgOrder := c.order
    cfgBase := c.base
    bAddr := if takesAddrStart i then BitVec.ofNat 8 c.addr else u.bAddr
    bStart := if takesAddrStart i then BitVec.ofNat 16 c.start else u.bStart
    bCount := if takesCount i then BitVec.ofNat 16 c.count else u.bCount
    bValue := if takesValue i then BitVec.ofNat 16 c.value else u.bValue
    bBc := if takesValues i then BitVec.ofNat 8 c.byteCount else u.bBc
    bValues := if takesValues i then c.values.map (BitVec.ofNat 16) else u.bValues
    resKind := .none }

/-- The operation ends: its kind is written and the engine is IDLE (10_state R26, R31). -/
def State.finish (k : ResultKind) (s : State) : State :=
  { s with resKind := k, phase := .idle, pending := none }

/-- An outcome is fixed: what is left is phase EMIT (10_state R31, 60_exceptions R315). -/
def State.conclude (p : Pending) (s : State) : State :=
  { s with phase := .emit, pending := some p, capReq := none, capAns := none }

/-- `raise Drop(reason)`: nothing is to be sent (60_exceptions R300). -/
def raiseDrop (r : SilenceReason) (s : State) : Result := .next (s.conclude (.suppress r))

/-- `raise ErrorFrame(a, fc, code)` (60_exceptions R302). -/
def raiseError (a fc code : Byte) (s : State) : Result := .next (s.conclude (.error a fc code))

/-- PHASE becomes CAP_IO with the call in CAP_REQ (10_state R32, 42_slave_processor R176). -/
def State.call (r : CapReq) (s : State) : State :=
  { s with phase := .capIO, capReq := some r, capAns := none }

/-- The called capability has returned (20_memory R55, R56). -/
def State.answered (a : CapAnswer) (s : State) : State := { s with capAns := some a }

/-- A frame is emitted: sealed, checked against P_MAX_FRAME_LEN, written (40_crc R131,
42_slave_processor R188, 60_exceptions R304 (4)). -/
def emitFrame (B : List Byte) (s : State) : Result :=
  let t := { s with acc := crc B }
  if Params.fits s.params (sealed B).length then
    .next { t.finish .frame with resFrame := sealed B }
  else .next (t.finish .refused)

/-- RES_VERDICT and its kind (41_validator R142, R151). -/
def emitVerdict (v : Verdict) (s : State) : Result := .next { s.finish .verdict with resVerdict := v }

/-- RES_RECORD and its kind (44_response_decoder R250, R252). -/
def emitRecord (r : DecoderOutcome) (s : State) : Result := .next { s.finish .record with resRecord := r }

/-- A capability's code and bytes break the contract: a read of `n` registers that succeeds with other
than 2n bytes, or a code wider than 8 bits (60_exceptions R305). -/
def CapAnswer.breaksReadContract (n : Half) (a : CapAnswer) : Bool :=
  decide (256 ≤ a.code) || (a.code == 0 && a.bytes.length != 2 * n.toNat)

/-- The write capability's contract (60_exceptions R305). -/
def CapAnswer.breaksWriteContract (a : CapAnswer) : Bool := decide (256 ≤ a.code)

end Sys2Proof.Machine
end

