-- ==== Sys2Proof/Machine/Builder.lean ====
section
/-! DEFINITION. Family: the master frame builders (43_master_builder). -/

namespace Sys2Proof.Machine

/-- The bytes of `buildRead(fc, a, s, c)` before the checksum (43_master_builder R221). -/
def readRequestBytes (fc a : Byte) (start count : Half) : List Byte :=
  [a, fc, hi8 start, lo8 start, hi8 count, lo8 count]

/-- BRHR (43_master_builder R222). -/
def execBrhr (s : State) : Result := emitFrame (readRequestBytes 0x03#8 s.bAddr s.bStart s.bCount) s

/-- BRIR (43_master_builder R223). -/
def execBrir (s : State) : Result := emitFrame (readRequestBytes 0x04#8 s.bAddr s.bStart s.bCount) s

/-- The function code BWSR writes (43_master_builder R224, conflict C3). -/
def wsBuildByte : WsBuildFc → Byte
  | .fc10 => 0x10#8
  | .fc06 => 0x06#8

/-- The bytes of a write-single request before the checksum (43_master_builder R224). -/
def writeSingleBytes (p : WsBuildFc) (o : ByteOrder) (a : Byte) (reg value : Half) : List Byte :=
  [a, wsBuildByte p, hi8 reg, lo8 reg] ++ encodeValue o value

/-- BWSR (43_master_builder R224). -/
def execBwsr (s : State) : Result :=
  emitFrame (writeSingleBytes s.params.wsBuildFc s.cfgOrder s.bAddr s.bStart s.bValue) s

/-- The bytes of a write-multiple request before the checksum; the register count goes low byte first
whatever the order (43_master_builder R226, 30_encoding R93). -/
def writeMultipleBytes (o : ByteOrder) (a : Byte) (start count : Half) (bc : Byte) (values : List Half) :
    List Byte :=
  [a, 0x10#8, hi8 start, lo8 start, lo8 count, hi8 count, bc] ++ encodeValues o values

/-- `B_BC mod 2 = 0 and length(B_VALUES) = B_BC div 2` (43_master_builder R226, R227). -/
def bwmrPrecondition (bc : Byte) (values : List Half) : Bool :=
  bc.toNat % 2 == 0 && values.length == bc.toNat / 2

/-- BWMR; refused where its precondition fails (43_master_builder R226, R227). -/
def execBwmr (s : State) : Result :=
  if bwmrPrecondition s.bBc s.bValues then
    emitFrame (writeMultipleBytes s.cfgOrder s.bAddr s.bStart s.bCount s.bBc s.bValues) s
  else .next (s.finish .refused)

end Sys2Proof.Machine
end

