-- ==== Sys2Proof/Machine/Crc.lean ====
section
/-! DEFINITION. Family: the CRC engine's operation (40_crc). -/

namespace Sys2Proof.Machine

/-- CRC: RES_CRC <- CRC(IN) (40_crc R132). -/
def execCrc (s : State) : Result :=
  .next { s.finish .checksum with resCrc := crc s.inp, acc := crc s.inp }

end Sys2Proof.Machine
end

