-- ==== Sys2Proof/Machine/Decoder.lean ====
section
/-! DEFINITION. Family: the response decoder: DRSP, DFLD, HEX, and the response rows, each the decoder's arm for one frame format (44_response_decoder; log 11). -/

namespace Sys2Proof.Machine

/-- `decodeRead(F, order)` (44_response_decoder R253). -/
def decodeRead (o : ByteOrder) (F : List Byte) : Record :=
  if F.length < 3 then .malformed
  else if F.length < 3 + (byteAt F 2).toNat then .malformed
  else
    .read (byteAt F 0) (byteAt F 1) (byteAt F 2) (decodeValues o (slice F 3 (3 + (byteAt F 2).toNat)))

/-- `decodeWriteSingle(F, order)` (44_response_decoder R254). -/
def decodeWriteSingle (o : ByteOrder) (F : List Byte) : Record :=
  if F.length < 6 then .malformed
  else
    .writeSingle (byteAt F 0) 0x06#8 (be16 (byteAt F 2) (byteAt F 3))
      (decodeValue o (byteAt F 4) (byteAt F 5))

/-- `decodeWriteMultiple(F)`: both fields big-endian under either order (44_response_decoder R255). -/
def decodeWriteMultiple (F : List Byte) : Record :=
  if F.length < 6 then .malformed
  else
    .writeMultiple (byteAt F 0) 0x10#8 (be16 (byteAt F 2) (byteAt F 3)) (be16 (byteAt F 4) (byteAt F 5))

/-- The ERROR record; the original function code is byte 1 with bit 7 cleared
(44_response_decoder R256, R259). -/
def errorRecord (addr fc code : Byte) : Record := .error addr (fc &&& 0x7F#8) (messageOf code) code

/-- `decodeError(F)` (44_response_decoder R256). -/
def decodeError (F : List Byte) : Record :=
  if F.length < 3 then .malformed
  else errorRecord (byteAt F 0) (byteAt F 1) (byteAt F 2)

/-- `decodeFields(F, order)` (44_response_decoder R252). -/
def decodeFields (o : ByteOrder) (F : List Byte) : Record :=
  let fc := byteAt F 1
  if F.length < 2 then .malformed
  else if fc == 0x03#8 || fc == 0x04#8 then decodeRead o F
  else if fc == 0x06#8 then decodeWriteSingle o F
  else if fc == 0x10#8 then decodeWriteMultiple F
  else if bit7 fc then decodeError F
  else .unrecognized (byteAt F 0) fc

/-- DRSP: structure first, then the checksum, then the fields (44_response_decoder R250). -/
def execDrsp (s : State) : Result :=
  match validateResponse s.inp with
  | .invalid r => emitRecord (.frameInvalid r) s
  | .valid =>
    let s := { s with acc := crc (covered s.inp) }
    if crcOk s.inp then emitRecord (.decoded (decodeFields s.cfgOrder s.inp)) s
    else emitRecord .checksumMismatch s

/-- DFLD: the fields of any frame, with no validation (44_response_decoder R252). -/
def execDfld (s : State) : Result := emitRecord (.fields (decodeFields s.cfgOrder s.inp)) s

/-- HEX: RES_TEXT <- toHexString(IN) (44_response_decoder R270). -/
def execHex (s : State) : Result := .next { s.finish .text with resText := toHexString s.inp }

/-- The record of a response row, as DFLD reports it (44_response_decoder R252). -/
def emitRow (r : Record) (s : State) : Result := emitRecord (.fields r) s

/-- RSP_READ (44_response_decoder R253). -/
def execRspRead (addr fc bc : Byte) (data : List Byte) (s : State) : Result :=
  emitRow (.read addr fc bc (decodeValues s.cfgOrder data)) s

/-- RSP_WRITE_SINGLE (44_response_decoder R254). -/
def execRspWriteSingle (addr : Byte) (reg : Half) (v0 v1 : Byte) (s : State) : Result :=
  emitRow (.writeSingle addr 0x06#8 reg (decodeValue s.cfgOrder v0 v1)) s

/-- RSP_WRITE_MULTIPLE (44_response_decoder R255). -/
def execRspWriteMultiple (addr : Byte) (start count : Half) (s : State) : Result :=
  emitRow (.writeMultiple addr 0x10#8 start count) s

/-- RSP_ERROR_83 (44_response_decoder R256). -/
def execRspError83 (addr code : Byte) (s : State) : Result := emitRow (errorRecord addr 0x83#8 code) s

/-- RSP_ERROR_84 (44_response_decoder R256). -/
def execRspError84 (addr code : Byte) (s : State) : Result := emitRow (errorRecord addr 0x84#8 code) s

/-- RSP_ERROR_86 (44_response_decoder R256). -/
def execRspError86 (addr code : Byte) (s : State) : Result := emitRow (errorRecord addr 0x86#8 code) s

/-- RSP_ERROR_90 (44_response_decoder R256). -/
def execRspError90 (addr code : Byte) (s : State) : Result := emitRow (errorRecord addr 0x90#8 code) s

/-- RSP_ERROR_OTHER (44_response_decoder R256; 30_encoding R83). -/
def execRspErrorOther (addr fc code : Byte) (s : State) : Result := emitRow (errorRecord addr fc code) s

/-- RSP_UNRECOGNIZED (44_response_decoder R257). -/
def execRspUnrecognized (addr fc : Byte) (s : State) : Result := emitRow (.unrecognized addr fc) s

end Sys2Proof.Machine
end

