-- ==== Sys2Proof/Machine/Reserved.lean ====
section
/-! DEFINITION. Family: the reserved selectors (30_encoding R111). -/

namespace Sys2Proof.Machine

/-- RESERVED_OP: RES_KIND = REFUSED; no other state is touched and no capability is called
(30_encoding R111). -/
def execReservedOp (_op : Byte) (s : State) : Result := .next s.refuse

end Sys2Proof.Machine
end

