-- ==== Sys2Proof/Machine/Slave.lean ====
section
/-! DEFINITION. Family: the slave request processor. PROC runs phases VALIDATE and EMIT, the request rows run DISPATCH and CAP_IO, ERROR_FRAME_EMIT writes the error frame (42_slave_processor; log 9, log 11). -/

namespace Sys2Proof.Machine

/-- Phase VALIDATE: steps 1 and 2 (42_slave_processor R175, R177, R178). -/
def procValidate (s : State) : Result :=
  let v := classifyRequest s.params.policy s.inp
  let s := { s with acc := accAfterCheck v.ranChecksum s.inp s.acc }
  match v with
  | .invalid r => raiseDrop (.malformed r) s
  | .valid | .unsupported =>
    let addr := byteAt s.inp 0
    let s := { s with lAddr := addr, lFc := byteAt s.inp 1, lBcast := addr == 0#8 }
    if addr != 0#8 && addr != s.cfgDevAddr then raiseDrop .notAddressed s
    else .next { s with phase := .dispatch }

/-- Phase EMIT of PROC: step 6, or the end of a drop (42_slave_processor R175, R188, R189;
60_exceptions R300, R302). -/
def procEmit (s : State) : Result :=
  match s.pending with
  | some (.respond R) => emitFrame R s
  | some (.error a fc code) => emitFrame [a, fc ||| 0x80#8, code] s
  | some (.suppress r) => .next { s.finish .noResponse with resReason := r }
  | some .decode => .fault .outOfSequence
  | none => .fault .outOfSequence

/-- PROC: issued in IDLE it enters VALIDATE; it then runs VALIDATE and, when an outcome is fixed, EMIT
(42_slave_processor R175, 10_state R31). DISPATCH and CAP_IO belong to the request rows. -/
def execProc (s : State) : Result :=
  match s.phase with
  | .idle => .next { s with phase := .validate }
  | .validate => procValidate s
  | .emit => procEmit s
  | .dispatch => .fault .outOfSequence
  | .capIO => .fault .outOfSequence

/-- `MemRead(L_START, L_COUNT)` is called, unless the range check fails or the request is a broadcast
(42_slave_processor R180, R183). -/
def readDispatch (addr fc : Byte) (start count : Half) (s : State) : Result :=
  let s := { s with lStart := start, lCount := count }
  if s.cfgTotal.toNat < start.toNat + count.toNat then raiseError addr fc 0x02#8 s
  else if addr == 0#8 then raiseDrop .broadcast s
  else .next (s.call (.read s.cfgBase start count))

/-- The read capability's answer, or the wait for it (42_slave_processor R183; 60_exceptions R305,
R331). -/
def readResume (s : State) : Result :=
  match s.capAns with
  | none => .next s
  | some a =>
    if a.breaksReadContract s.lCount then .fault .capabilityContract
    else if a.code != 0 then raiseError s.lAddr s.lFc (BitVec.ofNat 8 a.code) s
    else
      let data := orderPayload s.cfgOrder s.lCount.toNat a.bytes
      .next ({ s with payload := data }.conclude
        (.respond ([s.lAddr, s.lFc, BitVec.ofNat 8 (2 * s.lCount.toNat)] ++ data)))

/-- `MemWrite(L_START, n, PAYLOAD)` is called (42_slave_processor R184, R186). -/
def writeCall (start n : Half) (data : List Byte) (s : State) : Result :=
  .next ({ s with payload := data }.call (.write s.cfgBase start n data))

/-- The write capability's answer, or the wait for it; a broadcast is never answered, whatever the code
(42_slave_processor R184 to R187; 60_exceptions R305, R331). -/
def writeResume (s : State) : Result :=
  match s.capAns with
  | none => .next s
  | some a =>
    if a.breaksWriteContract then .fault .capabilityContract
    else if s.lBcast then raiseDrop .broadcast s
    else if a.code != 0 then raiseError s.lAddr s.lFc (BitVec.ofNat 8 a.code) s
    else .next (s.conclude (.respond (s.inp.take 6)))

/-- A request row runs `start` in DISPATCH and `resume` in CAP_IO, and in no other phase (10_state R31). -/
def inDispatch (start resume : State → Result) (s : State) : Result :=
  match s.phase with
  | .dispatch => start s
  | .capIO => resume s
  | .idle => .fault .outOfSequence
  | .validate => .fault .outOfSequence
  | .emit => .fault .outOfSequence

/-- REQ_READ_HOLDING (42_slave_processor R180, R183). -/
def execReqReadHolding (addr : Byte) (start count : Half) (s : State) : Result :=
  inDispatch (readDispatch addr 0x03#8 start count) readResume s

/-- REQ_READ_INPUT: as REQ_READ_HOLDING, with its own function code (42_slave_processor R180, R183). -/
def execReqReadInput (addr : Byte) (start count : Half) (s : State) : Result :=
  inDispatch (readDispatch addr 0x04#8 start count) readResume s

/-- Phase DISPATCH of a write-single: no range check; the two value bytes are swapped under HighLow
(42_slave_processor R182, R184). -/
def writeSingleDispatch (reg : Half) (v0 v1 : Byte) (s : State) : Result :=
  writeCall reg 1 (orderPayload s.cfgOrder 1 [v0, v1]) { s with lStart := reg }

/-- REQ_WRITE_SINGLE (42_slave_processor R182, R184, R185). -/
def execReqWriteSingle (_addr : Byte) (reg : Half) (v0 v1 : Byte) (s : State) : Result :=
  inDispatch (writeSingleDispatch reg v0 v1) writeResume s

/-- The quantity the range check of a write-multiple adds to the start (42_slave_processor R181,
conflict C9). -/
def wmRange (p : WmRangeCount) (byteCount : Byte) : Nat :=
  match p with
  | .byteCount => byteCount.toNat
  | .byteCountDiv2 => byteCount.toNat / 2

/-- Phase DISPATCH of a write-multiple (42_slave_processor R181, R186). -/
def writeMultipleDispatch (addr : Byte) (start : Half) (bc : Byte) (data : List Byte) (s : State) :
    Result :=
  let s := { s with lStart := start, lBc := bc }
  let m := bc.toNat / 2
  if s.cfgTotal.toNat < start.toNat + wmRange s.params.wmRangeCount bc then raiseError addr 0x10#8 0x02#8 s
  else writeCall start (BitVec.ofNat 16 m) (orderPayload s.cfgOrder m (data.take (2 * m))) s

/-- REQ_WRITE_MULTIPLE; the register-count field is not read (42_slave_processor R181, R185 to R187). -/
def execReqWriteMultiple (addr : Byte) (start _registerCount : Half) (bc : Byte) (data : List Byte)
    (s : State) : Result :=
  inDispatch (writeMultipleDispatch addr start bc data) writeResume s

/-- REQ_UNSUPPORTED: the IllegalFunction error frame, broadcast or not; no capability is called, so it
never runs in CAP_IO (42_slave_processor R179). -/
def execReqUnsupported (addr fc : Byte) (_body : List Byte) (s : State) : Result :=
  inDispatch (raiseError addr fc 0x01#8) (fun _ => .fault .outOfSequence) s

/-- ERROR_FRAME_EMIT: RES_FRAME <- seal([a, fc OR 0x80, code]) (42_slave_processor R190). -/
def execErrorFrameEmit (addr efc code : Byte) (s : State) : Result :=
  emitFrame [addr, efc ||| 0x80#8, code] s

end Sys2Proof.Machine
end

