-- ==== Sys2Proof/Machine/Validator.lean ====
section
/-! DEFINITION. Family: the frame validator's operations (41_validator). -/

namespace Sys2Proof.Machine

/-- VREQ: RES_VERDICT <- validateRequest(IN), under either policy (41_validator R142). -/
def execVreq (s : State) : Result :=
  let v := validateRequest s.inp
  emitVerdict v { s with acc := accAfterCheck v.ranChecksum s.inp s.acc }

/-- VRSP: RES_VERDICT <- validateResponse(IN); no checksum is examined (41_validator R151). -/
def execVrsp (s : State) : Result := emitVerdict (validateResponse s.inp) s

end Sys2Proof.Machine
end

