-- ==== Sys2Proof/Machine/Dispatch.lean ====
section
/-! DEFINITION. The dispatch: one arm per constructor of Instr. -/

namespace Sys2Proof.Machine

def exec (i : Instr) (s : State) : Host.Outcome State Fault Refusal :=
  match i with
  | .crc => Sys2Proof.Machine.execCrc s
  | .vreq => Sys2Proof.Machine.execVreq s
  | .vrsp => Sys2Proof.Machine.execVrsp s
  | .proc => Sys2Proof.Machine.execProc s
  | .brhr => Sys2Proof.Machine.execBrhr s
  | .brir => Sys2Proof.Machine.execBrir s
  | .bwsr => Sys2Proof.Machine.execBwsr s
  | .bwmr => Sys2Proof.Machine.execBwmr s
  | .drsp => Sys2Proof.Machine.execDrsp s
  | .dfld => Sys2Proof.Machine.execDfld s
  | .hex => Sys2Proof.Machine.execHex s
  | .reservedOp op => Sys2Proof.Machine.execReservedOp op s
  | .reqReadHolding addr start count => Sys2Proof.Machine.execReqReadHolding addr start count s
  | .reqReadInput addr start count => Sys2Proof.Machine.execReqReadInput addr start count s
  | .reqWriteSingle addr reg v0 v1 => Sys2Proof.Machine.execReqWriteSingle addr reg v0 v1 s
  | .reqWriteMultiple addr start rc bc data => Sys2Proof.Machine.execReqWriteMultiple addr start rc bc data s
  | .reqUnsupported addr fc body => Sys2Proof.Machine.execReqUnsupported addr fc body s
  | .rspRead addr fc bc data => Sys2Proof.Machine.execRspRead addr fc bc data s
  | .rspWriteSingle addr reg v0 v1 => Sys2Proof.Machine.execRspWriteSingle addr reg v0 v1 s
  | .rspWriteMultiple addr start rc => Sys2Proof.Machine.execRspWriteMultiple addr start rc s
  | .rspError83 addr code => Sys2Proof.Machine.execRspError83 addr code s
  | .rspError84 addr code => Sys2Proof.Machine.execRspError84 addr code s
  | .rspError86 addr code => Sys2Proof.Machine.execRspError86 addr code s
  | .rspError90 addr code => Sys2Proof.Machine.execRspError90 addr code s
  | .rspErrorOther addr fc code => Sys2Proof.Machine.execRspErrorOther addr fc code s
  | .rspUnrecognized addr fc => Sys2Proof.Machine.execRspUnrecognized addr fc s
  | .errorFrameEmit addr efc code => Sys2Proof.Machine.execErrorFrameEmit addr efc code s

end Sys2Proof.Machine
end

