-- ==== Sys2Proof/Machine/Sequencer.lean ====
section
/-! DEFINITION. What the next step runs: PHASE as the sequencer, the host's event, and how a table word is put where the next step runs it (10_state R31; 70_reset_and_hazards R350; log 2, log 9). -/

namespace Sys2Proof.Machine

/-- What a step does: run an instruction in a state, rest in a state, or stop. -/
inductive Action where
  | run (i : Instr) (s : State)
  | rest (s : State)
  | stop (f : Fault)
  deriving DecidableEq, Repr

/-- The instruction of an outcome waiting in phase EMIT: an error frame is ERROR_FRAME_EMIT's, the
record of a frame is its response row's, a frame with no row of its own is left to DFLD, and
everything else is PROC's (42_slave_processor R175, R190; log 11). -/
def emitInstr (inp : List Byte) : Option Pending → Option Instr
  | some (.error a fc code) => some (.errorFrameEmit a (fc ||| 0x80) code)
  | some .decode =>
    match decodeResponse inp with
    | .ok i => some i
    | .error _ => some .dfld
  | some (.respond _) => some .proc
  | some (.suppress _) => some .proc
  | none => none

/-- The instruction the engine is at, by PHASE: none in IDLE; PROC in VALIDATE; in DISPATCH and CAP_IO
the row of the request in IN (10_state R31, 30_encoding R112). -/
def State.current (s : State) : Option Instr :=
  match s.phase with
  | .idle => none
  | .validate => some .proc
  | .dispatch => (decodeRequest s.inp).toOption
  | .capIO => (decodeRequest s.inp).toOption
  | .emit => emitInstr s.inp s.pending

/-- The engine goes on by itself; in IDLE it waits for the host (70_reset_and_hazards R341). -/
def State.goOn (s : State) : Action :=
  if s.phase = .idle then .rest s
  else
    match s.current with
    | some i => .run i s
    | none => .stop .outOfSequence

/-- An accepted operation starts. DFLD on a frame of some response row runs that row in phase EMIT, in
this same step; the outcome is the one DFLD gives (obligation ResponseRowRunsAsDfld; log 11). -/
def State.start (i : Instr) (s : State) : Action :=
  if i = .dfld then
    match decodeResponse s.inp with
    | .ok row => .run row { s with phase := .emit, pending := some .decode }
    | .error _ => .run .dfld s
  else .run i s

/-- An issue: refused while an operation is in flight, which it does not disturb
(70_reset_and_hazards R350); a reserved selector is run as it stands (30_encoding R111); an operand out
of width or a frame too long is refused (60_exceptions R304); otherwise the operands are latched and
the operation runs. -/
def State.issued (c : Command) (s : State) : Action :=
  if s.phase ≠ .idle then .rest s.refuse
  else
    match decodeOp c.op with
    | .reservedOp op => .run (.reservedOp op) s
    | i => if c.accepted s.params then (s.accept c).start i else .rest s.refuse

/-- A capability's answer: taken when a call is in flight; with none in flight there is nothing it
answers (log 3). -/
def State.answeredBy (a : CapAnswer) (s : State) : Action :=
  if s.phase = .capIO then (s.answered a).goOn else .rest s

/-- What the next step does. -/
def State.nextAction (s : State) : Action :=
  match s.host with
  | [] => s.goOn
  | .quiet :: h => (s.withHost h).goOn
  | .issue c :: h => (s.withHost h).issued c
  | .answer a :: h => (s.withHost h).answeredBy a
  | .reset :: h => .rest (s.withHost h).reboot

/-- `s` with an instruction of a space where the next step runs it: a selector is issued by the host in
IDLE; a request stands in IN in phase DISPATCH, its header latched; a response stands in IN with its
record to be written (log 17). -/
def State.place (s : State) (sp : Space) (B : List Byte) : State :=
  match sp with
  | .selector =>
    { s with phase := .idle, capReq := none, capAns := none, pending := none
             host := .issue { op := byteAt B 0 } :: s.host }
  | .request =>
    { s with phase := .dispatch, capReq := none, capAns := none, pending := none, inp := B
             lAddr := byteAt B 0, lFc := byteAt B 1, lBcast := byteAt B 0 == 0
             host := .quiet :: s.host }
  | .response =>
    { s with phase := .emit, capReq := none, capAns := none, pending := some .decode, inp := B
             host := .quiet :: s.host }
  | .emitted =>
    { s with phase := .emit, capReq := none, capAns := none
             pending := some (.error (byteAt B 0) (byteAt B 1) (byteAt B 2))
             host := .quiet :: s.host }

end Sys2Proof.Machine
end

