-- ==== Sys2Proof/Machine/Step.lean ====
section
/-! DEFINITION. One step, and a table word placed where the next step runs it. -/

namespace Sys2Proof.Machine

/-- What an action comes to. -/
def Action.outcome : Action → Result
  | .run i t => exec i t
  | .rest t => .next t
  | .stop f => .fault f

/-- One step: the host's event, then the instruction PHASE is at (10_state R31). -/
def step (s : State) : Host.Outcome State Fault Refusal := s.nextAction.outcome

/-- `s` with the table word's instruction where the next step runs it (log 17). -/
def State.withFetchWord (s : State) (nbits w : Nat) : State :=
  s.place (tableFrame nbits w).1 (tableFrame nbits w).2

end Sys2Proof.Machine
end

