-- ==== Sys2Proof/Safety.lean ====
section
/-! DEFINITION. The terms claims use: what the host reads, the invariant of every run, the order of phases, and R175 written a second time as plain functions of one request. -/

namespace Sys2Proof.Machine

/-- What the host reads from the result channel: the kind and the payload it names. RES_REASON is left
out: no claim may rest on it (10_state R26, R27; D38). -/
inductive Reading where
  | none
  | frame (F : List Byte)
  | noResponse
  | verdict (v : Verdict)
  | checksum (c : Half)
  | record (r : DecoderOutcome)
  | text (t : List Char)
  | refused
  deriving DecidableEq, Repr

/-- The host's reading of a state (10_state R26, R27). -/
def State.reading (s : State) : Reading :=
  match s.resKind with
  | .none => .none
  | .frame => .frame s.resFrame
  | .noResponse => .noResponse
  | .verdict => .verdict s.resVerdict
  | .checksum => .checksum s.resCrc
  | .record => .record s.resRecord
  | .text => .text s.resText
  | .refused => .refused

/-- The call in flight is one the latched request makes: base, offset and count, and the bytes of a
write, are those of 42_slave_processor R183, R184 and R186 (20_memory R51, R52, R62, R72). -/
def CallOfRequest (s : State) : CapReq → Prop
  | .read base offset count =>
    base = s.cfgBase ∧ offset = s.lStart ∧ count = s.lCount ∧ (s.lFc = 0x03#8 ∨ s.lFc = 0x04#8)
      ∧ s.lBcast = false ∧ offset.toNat + count.toNat ≤ s.cfgTotal.toNat
  | .write base offset count bytes =>
    base = s.cfgBase ∧ offset = s.lStart ∧ bytes = s.payload ∧ bytes.length = 2 * count.toNat
      ∧ ((s.lFc = 0x06#8 ∧ count.toNat = 1) ∨ (s.lFc = 0x10#8 ∧ count.toNat = s.lBc.toNat / 2))

/-- The latched fields are the request's: L_START of every function code that calls, L_COUNT of the reads,
L_BC of 0x10, and PAYLOAD of the writes, swapped under HighLow (10_state R29, R30; 42_slave_processor
R183, R184, R186). -/
structure FieldsOfRequest (s : State) : Prop where
  start : s.lStart = be16 (byteAt s.inp 2) (byteAt s.inp 3)
  count : byteAt s.inp 1 = 0x03#8 ∨ byteAt s.inp 1 = 0x04#8 →
    s.lCount = be16 (byteAt s.inp 4) (byteAt s.inp 5)
  byteCount : byteAt s.inp 1 = 0x10#8 → s.lBc = byteAt s.inp 6
  single : byteAt s.inp 1 = 0x06#8 → s.payload = match s.cfgOrder with
    | .lowHigh => [byteAt s.inp 4, byteAt s.inp 5]
    | .highLow => [byteAt s.inp 5, byteAt s.inp 4]
  multiple : byteAt s.inp 1 = 0x10#8 →
    let m := (byteAt s.inp 6).toNat / 2
    let data := slice s.inp 7 (7 + 2 * m)
    s.payload = match s.cfgOrder with
      | .lowHigh => data
      | .highLow => swapPairs m data

/-- The answer `a` breaks the contract of the call in flight: a code over 8 bits, or a read that succeeds
with other than 2n bytes for the n it asked for (60_exceptions R305). -/
def BreaksContract (s : State) (a : CapAnswer) : Prop :=
  256 ≤ a.code
    ∨ (a.code = 0 ∧ ∃ base offset count, s.capReq = some (.read base offset count)
        ∧ a.bytes.length ≠ 2 * count.toNat)

/-- The invariant of every run. -/
structure State.Inv (s : State) : Prop where
  /-- CAP_REQ holds a request in CAP_IO and is empty otherwise (10_state R32). -/
  call_in_capIO : s.phase = .capIO ↔ s.capReq.isSome
  /-- An answer is used up in the step that brings it. -/
  no_answer_left : s.capAns = none
  /-- An outcome waits in EMIT, and only there (10_state R31). -/
  pending_in_emit : s.phase = .emit ↔ s.pending.isSome
  /-- DFLD's passage through EMIT is inside one step (10_state R31). -/
  no_decode_left : s.pending ≠ some .decode
  /-- While an operation is in flight RES_KIND is NONE, or REFUSED after a busy issue (10_state R26;
  60_exceptions R304; that REFUSED shows there is the model's choice, log 14). -/
  no_result_in_flight : s.phase ≠ .idle → s.resKind = .none ∨ s.resKind = .refused
  /-- In DISPATCH and CAP_IO, IN holds a request and its header is latched (10_state R29). -/
  request_latched : s.phase = .dispatch ∨ s.phase = .capIO →
    (∃ i, decode .request s.inp = .ok i)
      ∧ s.lAddr = byteAt s.inp 0 ∧ s.lFc = byteAt s.inp 1 ∧ s.lBcast = (byteAt s.inp 0 == 0#8)
  /-- In CAP_IO the fields the function code uses, and the bytes of a write, are those of IN. -/
  fields_latched : s.phase = .capIO → FieldsOfRequest s
  /-- The call in flight is the latched request's (20_memory R51, R62). -/
  call_of_request : ∀ r, s.capReq = some r → CallOfRequest s r
  /-- Every frame emitted carries its checksum and is within P_MAX_FRAME_LEN (40_crc R131, R134;
  42_slave_processor R188; 60_exceptions R304). -/
  frame_sealed : s.resKind = .frame →
    crcOk s.resFrame = true ∧ Params.fits s.params s.resFrame.length = true

/-- Which phase may follow which in a step that is no reset (10_state R31). A phase may stay: the engine
waits, or it refuses a second issue. -/
def Phase.mayFollow (p q : Phase) : Prop :=
  q = p ∨ (p = .idle ∧ q = .validate) ∨ (p = .validate ∧ q = .dispatch) ∨ (p = .validate ∧ q = .emit)
    ∨ (p = .dispatch ∧ q = .capIO) ∨ (p = .dispatch ∧ q = .emit) ∨ (p = .capIO ∧ q = .emit)
    ∨ (p = .emit ∧ q = .idle)

/-- What steps 1 to 4 of R175 lead to. -/
inductive Plan where
  | silent
  | error (a fc code : Byte)
  | read (start count : Half)
  | write (start count : Half) (bytes : List Byte)
  deriving DecidableEq, Repr

/-- Steps 1 to 4 of R175, and the payload of a write, from the request alone
(42_slave_processor R175 to R186). -/
def planOf (p : Params) (F : List Byte) (dev : Byte) (total : Half) (o : ByteOrder) : Plan :=
  let addr := byteAt F 0
  let fc := byteAt F 1
  let start := be16 (byteAt F 2) (byteAt F 3)
  match classifyRequest p.policy F with
  | .invalid _ => .silent
  | .unsupported => if addr ≠ 0#8 ∧ addr ≠ dev then .silent else .error addr fc 0x01#8
  | .valid =>
    if addr ≠ 0#8 ∧ addr ≠ dev then .silent
    else if fc = 0x06#8 then
      .write start 1 (match o with
        | .lowHigh => [byteAt F 4, byteAt F 5]
        | .highLow => [byteAt F 5, byteAt F 4])
    else if fc = 0x10#8 then
      let bc := (byteAt F 6).toNat
      let n := match p.wmRangeCount with
        | .byteCount => bc
        | .byteCountDiv2 => bc / 2
      if total.toNat < start.toNat + n then .error addr fc 0x02#8
      else
        let data := slice F 7 (7 + 2 * (bc / 2))
        .write start (BitVec.ofNat 16 (bc / 2)) (match o with
          | .lowHigh => data
          | .highLow => swapPairs (bc / 2) data)
    else
      let count := be16 (byteAt F 4) (byteAt F 5)
      if total.toNat < start.toNat + count.toNat then .error addr fc 0x02#8
      else if addr = 0#8 then .silent
      else .read start count

/-- The bytes PROC sends before their checksum, `none` when it sends nothing, given the answer of the
call the plan makes, if it makes one (42_slave_processor R175, R183 to R191). -/
def sentBytes (F : List Byte) (o : ByteOrder) (a : CapAnswer) : Plan → Option (List Byte)
  | .silent => none
  | .error addr fc code => some [addr, fc ||| 0x80#8, code]
  | .read _ count =>
    if a.code ≠ 0 then some [byteAt F 0, byteAt F 1 ||| 0x80#8, BitVec.ofNat 8 a.code]
    else
      some ([byteAt F 0, byteAt F 1, BitVec.ofNat 8 (2 * count.toNat)] ++ (match o with
        | .lowHigh => a.bytes
        | .highLow => swapPairs count.toNat a.bytes))
  | .write _ _ _ =>
    if byteAt F 0 = 0#8 then none
    else if a.code ≠ 0 then some [byteAt F 0, byteAt F 1 ||| 0x80#8, BitVec.ofNat 8 a.code]
    else some (F.take 6)

/-- The answer keeps the contract of the call the plan makes (60_exceptions R305). -/
def keepsContract (a : CapAnswer) : Plan → Prop
  | .silent => True
  | .error _ _ _ => True
  | .read _ count => a.code < 256 ∧ (a.code = 0 → a.bytes.length = 2 * count.toNat)
  | .write _ _ _ => a.code < 256

/-- The call a plan makes (20_memory R52, R55, R56). -/
def Plan.call (base : BaseToken) : Plan → Option CapReq
  | .silent => none
  | .error _ _ _ => none
  | .read start count => some (.read base start count)
  | .write start count bytes => some (.write base start count bytes)

/-- What the host reads when these bytes are sent: the sealed frame, or REFUSED when it is longer than
P_MAX_FRAME_LEN; NO_RESPONSE when nothing is sent (42_slave_processor R188, R189; 60_exceptions R304). -/
def readingOf (p : Params) : Option (List Byte) → Reading
  | none => .noResponse
  | some B => if Params.fits p (sealed B).length then .frame (sealed B) else .refused

/-- What emitting the bytes `B` from `s` comes to, all other state unchanged: the sealed frame, or REFUSED
when it is longer than P_MAX_FRAME_LEN (40_crc R131; 60_exceptions R304 (4)). -/
def Emits (B : List Byte) (s : State) (out : Result) : Prop :=
  (Params.fits s.params (B.length + 2) = true →
    out = .next { s with
      acc := crc B, resFrame := B ++ [lo8 (crc B), hi8 (crc B)], resKind := .frame, phase := .idle,
      pending := none })
  ∧ (Params.fits s.params (B.length + 2) = false →
    out = .next { s with acc := crc B, resKind := .refused, phase := .idle, pending := none })

/-- What raising an outcome in `s` comes to: PHASE is EMIT, the outcome waits, no call is in flight. -/
def Raises (p : Pending) (s : State) (out : Result) : Prop :=
  out = .next { s with phase := .emit, pending := some p, capReq := none, capAns := none }

/-- What writing a record from `s` comes to, all other state unchanged. -/
def Records (r : DecoderOutcome) (s : State) (out : Result) : Prop :=
  out = .next { s with resRecord := r, resKind := .record, phase := .idle, pending := none }

/-- One round of 40_crc R130 on naturals: halve, XOR 0xA001 when the number was odd. -/
def natRound (n : Nat) : Nat := if n % 2 = 1 then (n / 2) ^^^ 0xA001 else n / 2

/-- One byte of 40_crc R130 on naturals: the XOR meets only the low 8 bits. -/
def natByte (n : Nat) (b : Byte) : Nat := natRound^[8] (n ^^^ b.toNat)

/-- 40_crc R130 on naturals, to compare the accumulator's bits with. -/
def natCrc (B : List Byte) : Nat := B.foldl natByte 0xFFFF

end Sys2Proof.Machine
end

