-- ==== Sys2Proof/Certificates/Slice0/Obligations.lean ====
section
/-! DEFINITION. The statements about the frame engine, one def each, listed in OBLIGATIONS.json. -/

open Sys2Proof Sys2Proof.Machine

/-- Words written out from 30_encoding R84 to R90 and R110 decode to the instruction they stand for. -/
def Obligations.SpecWordsDecode : Prop :=
  decode .selector [0x01#8] = .ok .crc
  ∧ decode .selector [0x04#8] = .ok .proc
  ∧ decode .selector [0x0B#8] = .ok .hex
  ∧ decode .selector [0x0C#8] = .ok (.reservedOp 0x0C#8)
  ∧ decode .request [0x11#8, 0x03#8, 0x00#8, 0x6B#8, 0x00#8, 0x03#8, 0x76#8, 0x87#8]
      = .ok (.reqReadHolding 0x11#8 0x006B 0x0003)
  ∧ decode .request [0x01#8, 0x10#8, 0x00#8, 0x01#8, 0x02#8, 0x00#8, 0x04#8, 0x0A#8, 0x00#8, 0x02#8, 0x01#8, 0xD3#8, 0x39#8]
      = .ok (.reqWriteMultiple 0x01#8 0x0001 0x0002 0x04#8 [0x0A#8, 0x00#8, 0x02#8, 0x01#8])
  ∧ decode .response [0x01#8, 0x06#8, 0x00#8, 0x01#8, 0x34#8, 0x12#8, 0x4E#8, 0xC7#8]
      = .ok (.rspWriteSingle 0x01#8 0x0001 0x34#8 0x12#8)
  ∧ decode .response [0x01#8, 0x90#8, 0x02#8, 0xCD#8, 0xC1#8] = .ok (.rspError90 0x01#8 0x02#8)
  ∧ decode .emitted [0x01#8, 0x99#8, 0x01#8, 0x8B#8, 0x90#8] = .ok (.errorFrameEmit 0x01#8 0x99#8 0x01#8)

/-- No bit of an encoding is dropped: every well-formed instruction of every encoding comes back. -/
def Obligations.DecodeOfEncodeIsTheInstruction : Prop :=
  ∀ i : Instr, i.wellFormed = true → decode i.space (encode i) = .ok i

/-- A request frame has one reading, and the reading has that one frame. -/
def Obligations.RequestDecodeIsExact : Prop :=
  ∀ (F : List Byte) (i : Instr), decode .request F = .ok i →
    encode i = F ∧ i.wellFormed = true ∧ i.space = .request

/-- The decoder reads a request exactly where PROC's step 1 lets one through under the default policy,
and REQ_UNSUPPORTED exactly where the class is UNSUPPORTED. -/
def Obligations.RequestDecodesWhereClassified : Prop :=
  ∀ F : List Byte,
    ((∃ i, decode .request F = .ok i) ↔
      (classifyRequest .illegalFunction F = .valid ∨ classifyRequest .illegalFunction F = .unsupported))
    ∧ ((∃ a fc body, decode .request F = .ok (.reqUnsupported a fc body)) ↔
      classifyRequest .illegalFunction F = .unsupported)

/-- The row of a response frame does what DFLD does with that frame, for all of the next state. -/
def Obligations.ResponseRowRunsAsDfld : Prop :=
  ∀ (s : State) (i : Instr), decode .response s.inp = .ok i → exec i s = exec .dfld s

/-- 40_crc R134, both halves. The first is the source's. The second is an inference of the spec, which R134
marks "[derived: from rule R130; checked by the reference implementation on 20,000 random sequences of
length 0 to 39, not proved]". -/
def Obligations.SealThenVerify : Prop :=
  ∀ B : List Byte,
    crcOk (B ++ [lo8 (crc B), hi8 (crc B)]) = true ∧ crc (B ++ [lo8 (crc B), hi8 (crc B)]) = 0#16

/-- The accumulator's bit rule is 40_crc R130 on naturals: halving, and XOR 0xA001 on odd numbers. -/
def Obligations.ChecksumIsTheRuleOnNaturals : Prop :=
  ∀ B : List Byte, (crc B).toNat = natCrc B

/-- CRC writes RES_CRC and its kind; all else but ACC stays. What ACC holds is the model's reading
(log 16). -/
def Obligations.CrcWritesTheChecksum : Prop :=
  (∀ s : State,
    exec .crc s = .next { s with
      resCrc := crc s.inp, acc := crc s.inp, resKind := .checksum, phase := .idle, pending := none })
  ∧ crc [] = 0xFFFF
  ∧ crc [0x01#8, 0x03#8, 0x00#8, 0x00#8, 0x00#8, 0x0A#8] = 0xCDC5

/-- VREQ and 41_validator R140: which frames get which verdict, in the order of the checks. All other
state but ACC stays. -/
def Obligations.RequestVerdicts : Prop :=
  (∀ s : State, ∃ a,
    exec .vreq s = .next { s with
      resVerdict := validateRequest s.inp, acc := a, resKind := .verdict, phase := .idle,
      pending := none })
  ∧ ∀ F : List Byte,
    let fc := byteAt F 1
    let known := fc = 0x03#8 ∨ fc = 0x04#8 ∨ fc = 0x06#8 ∨ fc = 0x10#8
    let shaped := ((fc = 0x03#8 ∨ fc = 0x04#8 ∨ fc = 0x06#8) ∧ F.length = 8)
      ∨ (fc = 0x10#8 ∧ 9 ≤ F.length ∧ F.length = 9 + (byteAt F 6).toNat)
    (validateRequest F = .invalid .tooShort ↔ F.length < 2)
    ∧ (validateRequest F = .invalid .unsupportedFc ↔ 2 ≤ F.length ∧ ¬ known)
    ∧ (validateRequest F = .invalid .length ↔ 2 ≤ F.length ∧ known ∧ ¬ shaped)
    ∧ (validateRequest F = .invalid .crc ↔ 2 ≤ F.length ∧ shaped ∧ crcOk F = false)
    ∧ (validateRequest F = .valid ↔ 2 ≤ F.length ∧ shaped ∧ crcOk F = true)

/-- VRSP and 41_validator R150: the verdict depends on the length and the function code alone. All other
state stays. -/
def Obligations.ResponseVerdicts : Prop :=
  (∀ s : State,
    exec .vrsp s = .next { s with
      resVerdict := validateResponse s.inp, resKind := .verdict, phase := .idle, pending := none })
  ∧ ∀ F : List Byte,
    let fc := byteAt F 1
    let known := fc = 0x03#8 ∨ fc = 0x04#8 ∨ fc = 0x06#8 ∨ fc = 0x10#8
      ∨ fc = 0x83#8 ∨ fc = 0x84#8 ∨ fc = 0x86#8 ∨ fc = 0x90#8
    let shaped := ((fc = 0x03#8 ∨ fc = 0x04#8) ∧ 3 ≤ F.length ∧ F.length = 5 + (byteAt F 2).toNat)
      ∨ ((fc = 0x06#8 ∨ fc = 0x10#8) ∧ F.length = 8)
      ∨ ((fc = 0x83#8 ∨ fc = 0x84#8 ∨ fc = 0x86#8 ∨ fc = 0x90#8) ∧ F.length = 5)
    (validateResponse F = .invalid .tooShort ↔ F.length < 2)
    ∧ (validateResponse F = .invalid .unsupportedFc ↔ 2 ≤ F.length ∧ ¬ known)
    ∧ (validateResponse F = .invalid .length ↔ 2 ≤ F.length ∧ known ∧ ¬ shaped)
    ∧ (validateResponse F = .valid ↔ 2 ≤ F.length ∧ shaped)
    ∧ validateResponse F ≠ .invalid .crc

/-- 41_validator R141 in its whole. -/
def Obligations.RequestClasses : Prop :=
  ∀ (p : UnsupportedFcPolicy) (F : List Byte),
    (validateRequest F = .valid → classifyRequest p F = .valid)
    ∧ (∀ r, r ≠ .unsupportedFc → validateRequest F = .invalid r → classifyRequest p F = .invalid r)
    ∧ (validateRequest F = .invalid .unsupportedFc →
        (p = .drop → classifyRequest p F = .invalid .unsupportedFc)
        ∧ (p = .illegalFunction → F.length < 4 → classifyRequest p F = .invalid .length)
        ∧ (p = .illegalFunction → 4 ≤ F.length → crcOk F = false → classifyRequest p F = .invalid .crc)
        ∧ (p = .illegalFunction → 4 ≤ F.length → crcOk F = true → classifyRequest p F = .unsupported))

/-- PROC as it is issued: PHASE becomes VALIDATE and nothing else changes. -/
def Obligations.ProcEntersValidate : Prop :=
  ∀ s : State, s.phase = .idle → exec .proc s = .next { s with phase := .validate }

/-- PROC in VALIDATE, steps 1 and 2: a malformed frame or one for another device is dropped; every other
one has its header latched and goes to DISPATCH. The drop's reason is not claimed (D38); ACC is the
model's reading of 10_state R28 (log 16). -/
def Obligations.ProcValidatesAndFilters : Prop :=
  ∀ s : State, s.phase = .validate →
    let cls := classifyRequest s.params.policy s.inp
    let addr := byteAt s.inp 0
    let latched : State := { s with
      acc := crc (covered s.inp), lAddr := addr, lFc := byteAt s.inp 1, lBcast := addr == 0#8 }
    ((∃ r, cls = .invalid r) → ∃ why a, Raises (.suppress why) { s with acc := a } (exec .proc s))
    ∧ (cls = .valid ∨ cls = .unsupported → addr ≠ 0#8 → addr ≠ s.cfgDevAddr →
        ∃ why, Raises (.suppress why) latched (exec .proc s))
    ∧ (cls = .valid ∨ cls = .unsupported → (addr = 0#8 ∨ addr = s.cfgDevAddr) →
        exec .proc s = .next { latched with phase := .dispatch })

/-- PROC in EMIT: a response is sealed and written, a drop writes NO_RESPONSE and no frame. The drop's
reason is not claimed (D38). `Emits` holds the model's choices of log 14 (REFUSED is a next state) and
log 16 (ACC). -/
def Obligations.ProcEmitsOrSuppresses : Prop :=
  ∀ s : State, s.phase = .emit →
    (∀ R, s.pending = some (.respond R) → Emits R s (exec .proc s))
    ∧ (∀ why, s.pending = some (.suppress why) → ∃ why',
        exec .proc s = .next { s with
          resReason := why', resKind := .noResponse, phase := .idle, pending := none })

/-- ERROR_FRAME_EMIT, 42_slave_processor R190: the 5-byte error frame, or REFUSED under a smaller
P_MAX_FRAME_LEN. `Emits` holds the model's choices of log 14, log 16 and log 18. -/
def Obligations.ErrorFrameIsEmitted : Prop :=
  ∀ (a fc code : Byte) (s : State),
    Emits [a, fc ||| 0x80#8, code] s (exec (.errorFrameEmit a (fc ||| 0x80#8) code) s)

/-- REQ_UNSUPPORTED, 42_slave_processor R179: error 0x01, broadcast or not, and no call. -/
def Obligations.UnsupportedIsAnsweredIllegalFunction : Prop :=
  ∀ (addr fc : Byte) (body : List Byte) (s : State), s.phase = .dispatch →
    Raises (.error addr fc 0x01#8) s (exec (.reqUnsupported addr fc body) s)

/-- The two read rows in DISPATCH, 42_slave_processor R180 and R183: error 0x02 out of range, broadcast or
not; nothing for a broadcast in range; otherwise the one read call. -/
def Obligations.ReadRequestsCheckAndCall : Prop :=
  ∀ (i : Instr) (fc addr : Byte) (start count : Half) (s : State), s.phase = .dispatch →
    (i = .reqReadHolding addr start count ∧ fc = 0x03#8)
      ∨ (i = .reqReadInput addr start count ∧ fc = 0x04#8) →
    let latched : State := { s with lStart := start, lCount := count }
    (s.cfgTotal.toNat < start.toNat + count.toNat → Raises (.error addr fc 0x02#8) latched (exec i s))
    ∧ (start.toNat + count.toNat ≤ s.cfgTotal.toNat → addr = 0#8 →
        ∃ why, Raises (.suppress why) latched (exec i s))
    ∧ (start.toNat + count.toNat ≤ s.cfgTotal.toNat → addr ≠ 0#8 →
        exec i s = .next { latched with
          phase := .capIO, capReq := some (.read s.cfgBase start count), capAns := none })

/-- The two read rows in CAP_IO, 42_slave_processor R183: a nonzero code is forwarded in an error frame;
on success the payload, swapped under HighLow, stands behind address, function code and byte count. -/
def Obligations.ReadRequestsAnswer : Prop :=
  ∀ (i : Instr) (addr : Byte) (start count : Half) (s : State) (a : CapAnswer),
    s.phase = .capIO → s.capAns = some a → a.code < 256 →
    i = .reqReadHolding addr start count ∨ i = .reqReadInput addr start count →
    (a.code ≠ 0 → Raises (.error s.lAddr s.lFc (BitVec.ofNat 8 a.code)) s (exec i s))
    ∧ (a.code = 0 → a.bytes.length = 2 * s.lCount.toNat →
        let data := match s.cfgOrder with
          | .lowHigh => a.bytes
          | .highLow => swapPairs s.lCount.toNat a.bytes
        Raises (.respond ([s.lAddr, s.lFc, BitVec.ofNat 8 (2 * s.lCount.toNat)] ++ data))
          { s with payload := data } (exec i s))

/-- REQ_WRITE_SINGLE in DISPATCH, 42_slave_processor R182 and R184: no range check, whatever CFG_TOTAL is;
the value bytes are passed as received, swapped under HighLow. -/
def Obligations.WriteSingleCalls : Prop :=
  ∀ (addr : Byte) (reg : Half) (v0 v1 : Byte) (s : State), s.phase = .dispatch →
    let data := match s.cfgOrder with
      | .lowHigh => [v0, v1]
      | .highLow => [v1, v0]
    exec (.reqWriteSingle addr reg v0 v1) s = .next { s with
      lStart := reg, payload := data, phase := .capIO,
      capReq := some (.write s.cfgBase reg 1 data), capAns := none }

/-- REQ_WRITE_MULTIPLE in DISPATCH, 42_slave_processor R181 and R186: error 0x02 out of range by
P_WM_RANGE_COUNT, broadcast or not; otherwise `byteCount div 2` registers are written, an odd last byte
is left out, and the register-count field is not read. -/
def Obligations.WriteMultipleChecksAndCalls : Prop :=
  ∀ (addr : Byte) (start rc : Half) (bc : Byte) (data : List Byte) (s : State), s.phase = .dispatch →
    let latched : State := { s with lStart := start, lBc := bc }
    let n := match s.params.wmRangeCount with
      | .byteCount => bc.toNat
      | .byteCountDiv2 => bc.toNat / 2
    let m := bc.toNat / 2
    let sent := match s.cfgOrder with
      | .lowHigh => data.take (2 * m)
      | .highLow => swapPairs m (data.take (2 * m))
    (s.cfgTotal.toNat < start.toNat + n →
      Raises (.error addr 0x10#8 0x02#8) latched (exec (.reqWriteMultiple addr start rc bc data) s))
    ∧ (start.toNat + n ≤ s.cfgTotal.toNat →
      exec (.reqWriteMultiple addr start rc bc data) s = .next { latched with
        payload := sent, phase := .capIO,
        capReq := some (.write s.cfgBase start (BitVec.ofNat 16 m) sent), capAns := none })

/-- The write rows in CAP_IO, 42_slave_processor R184 to R187: a broadcast is not answered whatever the
code; a nonzero code is forwarded in an error frame; success echoes the first 6 bytes of IN. -/
def Obligations.WriteRequestsAnswer : Prop :=
  ∀ (i : Instr) (s : State) (a : CapAnswer), s.phase = .capIO → s.capAns = some a → a.code < 256 →
    (∃ addr reg v0 v1, i = .reqWriteSingle addr reg v0 v1)
      ∨ (∃ addr start rc bc data, i = .reqWriteMultiple addr start rc bc data) →
    (s.lBcast = true → ∃ why, Raises (.suppress why) s (exec i s))
    ∧ (s.lBcast = false → a.code ≠ 0 →
        Raises (.error s.lAddr s.lFc (BitVec.ofNat 8 a.code)) s (exec i s))
    ∧ (s.lBcast = false → a.code = 0 → Raises (.respond (s.inp.take 6)) s (exec i s))

/-- 60_exceptions R305: a capability that breaks its contract gives a fault and no result. -/
def Obligations.BrokenContractFaults : Prop :=
  ∀ (s : State) (a : CapAnswer), s.phase = .capIO → s.capAns = some a →
    (256 ≤ a.code ∨ (a.code = 0 ∧ a.bytes.length ≠ 2 * s.lCount.toNat) →
      ∀ addr start count,
        exec (.reqReadHolding addr start count) s = .fault .capabilityContract
        ∧ exec (.reqReadInput addr start count) s = .fault .capabilityContract)
    ∧ (256 ≤ a.code →
        (∀ addr reg v0 v1, exec (.reqWriteSingle addr reg v0 v1) s = .fault .capabilityContract)
        ∧ (∀ addr start rc bc data,
            exec (.reqWriteMultiple addr start rc bc data) s = .fault .capabilityContract))

/-- 70_reset_and_hazards R353: while the capability has not returned PROCESS stays in CAP_IO, however long
it is: with quiet events, and with a host whose list is empty. That every such step repeats the state but
for the host's list is the model's reading (log 10), and the list is its choice (log 2). -/
def Obligations.BlockedCallWaits : Prop :=
  ∀ (n : Nat) (s : State), s.Inv → s.phase = .capIO →
    (∀ h, s.host = List.replicate n .quiet ++ h →
      Host.Core.run Sys2Proof.core n s
        = (.next { s with host := h } : Host.Outcome State Fault Refusal))
    ∧ (s.host = [] →
      Host.Core.run Sys2Proof.core n s = (.next s : Host.Outcome State Fault Refusal))

/-- BRHR and BRIR, 43_master_builder R221: 8 bytes, whatever the operands. `Emits` holds the model's
choices of log 14 and log 16. -/
def Obligations.ReadBuildersBuild : Prop :=
  ∀ s : State,
    Emits [s.bAddr, 0x03#8, hi8 s.bStart, lo8 s.bStart, hi8 s.bCount, lo8 s.bCount] s (exec .brhr s)
    ∧ Emits [s.bAddr, 0x04#8, hi8 s.bStart, lo8 s.bStart, hi8 s.bCount, lo8 s.bCount] s (exec .brir s)

/-- BWSR, 43_master_builder R224: the function code is P_WS_BUILD_FC, the value follows CFG_ORDER.
`Emits` holds the model's choices of log 14 and log 16. -/
def Obligations.WriteSingleBuilderBuilds : Prop :=
  ∀ s : State,
    let fc : Byte := match s.params.wsBuildFc with
      | .fc10 => 0x10#8
      | .fc06 => 0x06#8
    let value := match s.cfgOrder with
      | .lowHigh => [lo8 s.bValue, hi8 s.bValue]
      | .highLow => [hi8 s.bValue, lo8 s.bValue]
    Emits ([s.bAddr, fc, hi8 s.bStart, lo8 s.bStart] ++ value) s (exec .bwsr s)

/-- BWMR, 43_master_builder R226 and R227: the register count goes low byte first under either order;
operands that disagree are refused. The model's choices: log 14, log 16, log 23. -/
def Obligations.WriteMultipleBuilderBuilds : Prop :=
  ∀ s : State,
    (s.bBc.toNat % 2 = 0 → s.bValues.length = s.bBc.toNat / 2 →
      Emits ([s.bAddr, 0x10#8, hi8 s.bStart, lo8 s.bStart, lo8 s.bCount, hi8 s.bCount, s.bBc]
        ++ s.bValues.flatMap (fun v => match s.cfgOrder with
          | .lowHigh => [lo8 v, hi8 v]
          | .highLow => [hi8 v, lo8 v])) s (exec .bwmr s))
    ∧ (s.bBc.toNat % 2 = 1 ∨ s.bValues.length ≠ s.bBc.toNat / 2 →
      exec .bwmr s = .next { s with resKind := .refused, phase := .idle, pending := none })

/-- What the builders build passes the request validator, but for BWSR under P_WS_BUILD_FC = 0x10, which
no validator accepts (43_master_builder R224, R225; 95_test_vectors 2.4). -/
def Obligations.BuiltFramesValidate : Prop :=
  (∀ fc a start count, fc = 0x03#8 ∨ fc = 0x04#8 →
    validateRequest (sealed (readRequestBytes fc a start count)) = .valid)
  ∧ (∀ o a reg value,
    validateRequest (sealed (writeSingleBytes .fc06 o a reg value)) = .valid
    ∧ validateRequest (sealed (writeSingleBytes .fc10 o a reg value)) = .invalid .length)
  ∧ (∀ o a start count bc values, bwmrPrecondition bc values = true →
    validateRequest (sealed (writeMultipleBytes o a start count bc values)) = .valid)

/-- The round trip of 43_master_builder R225 under P_WS_BUILD_FC = 0x06: the frame is valid both as the
request and as its echo, and DRSP's decoder reports the register and the value, under either order. -/
def Obligations.WriteSingleRoundTrip : Prop :=
  ∀ (o : ByteOrder) (a : Byte) (reg value : Half),
    let F := sealed (writeSingleBytes .fc06 o a reg value)
    validateRequest F = .valid ∧ validateResponse F = .valid ∧ crcOk F = true
    ∧ decodeFields o F = .writeSingle a 0x06#8 reg value
    ∧ sealed (F.take 6) = F

/-- Changing the order of a write-single frame changes bytes 4 to 7 only, and swaps bytes 4 and 5
(43_master_builder R224, conflict C7). -/
def Obligations.OrderTouchesValueAndChecksumOnly : Prop :=
  ∀ (p : WsBuildFc) (a : Byte) (reg value : Half),
    let L := sealed (writeSingleBytes p .lowHigh a reg value)
    let H := sealed (writeSingleBytes p .highLow a reg value)
    L.length = 8 ∧ H.length = 8 ∧ L.take 4 = H.take 4
    ∧ byteAt L 4 = byteAt H 5 ∧ byteAt L 5 = byteAt H 4

/-- What BWMR builds is what the slave reads: the request's fields, with every value in its place
(30_encoding R86, R92, R93). -/
def Obligations.BuiltWriteMultipleDecodes : Prop :=
  ∀ (o : ByteOrder) (a : Byte) (start count : Half) (bc : Byte) (values : List Half),
    bwmrPrecondition bc values = true →
    decode .request (sealed (writeMultipleBytes o a start count bc values))
        = .ok (.reqWriteMultiple a start count bc (encodeValues o values))
    ∧ decodeValues o (encodeValues o values) = values

/-- DRSP, 44_response_decoder R250 and R251: structure first, then the checksum, then the fields; never
UNRECOGNIZED or MALFORMED after that. All other state but ACC stays. -/
def Obligations.ResponseIsValidatedThenDecoded : Prop :=
  ∀ s : State,
    (∀ r, validateResponse s.inp = .invalid r → Records (.frameInvalid r) s (exec .drsp s))
    ∧ (validateResponse s.inp = .valid → crcOk s.inp = false →
        ∃ a, Records .checksumMismatch { s with acc := a } (exec .drsp s))
    ∧ (validateResponse s.inp = .valid → crcOk s.inp = true →
        (∃ a, Records (.decoded (decodeFields s.cfgOrder s.inp)) { s with acc := a } (exec .drsp s))
        ∧ decodeFields s.cfgOrder s.inp ≠ .malformed
        ∧ ∀ x y, decodeFields s.cfgOrder s.inp ≠ .unrecognized x y)

/-- DFLD, 44_response_decoder R252 to R258: which record each frame gives. All other state stays. -/
def Obligations.FieldsAreDecoded : Prop :=
  (∀ s : State, Records (.fields (decodeFields s.cfgOrder s.inp)) s (exec .dfld s))
  ∧ ∀ (o : ByteOrder) (F : List Byte),
    let a := byteAt F 0
    let fc := byteAt F 1
    let value := fun k => match o with
      | .lowHigh => le16 (byteAt F k) (byteAt F (k + 1))
      | .highLow => be16 (byteAt F k) (byteAt F (k + 1))
    (F.length < 2 → decodeFields o F = .malformed)
    ∧ (2 ≤ F.length → fc = 0x03#8 ∨ fc = 0x04#8 →
        let bc := byteAt F 2
        (F.length < 3 ∨ F.length < 3 + bc.toNat → decodeFields o F = .malformed)
        ∧ (3 ≤ F.length → 3 + bc.toNat ≤ F.length →
            decodeFields o F = .read a fc bc
              ((List.range (bc.toNat / 2)).map (fun k => value (3 + 2 * k)))))
    ∧ (2 ≤ F.length → fc = 0x06#8 →
        (F.length < 6 → decodeFields o F = .malformed)
        ∧ (6 ≤ F.length → decodeFields o F
            = .writeSingle a 0x06#8 (be16 (byteAt F 2) (byteAt F 3)) (value 4)))
    ∧ (2 ≤ F.length → fc = 0x10#8 →
        (F.length < 6 → decodeFields o F = .malformed)
        ∧ (6 ≤ F.length → decodeFields o F
            = .writeMultiple a 0x10#8 (be16 (byteAt F 2) (byteAt F 3)) (be16 (byteAt F 4) (byteAt F 5))))
    ∧ (2 ≤ F.length → 0x80 ≤ fc.toNat →
        (F.length < 3 → decodeFields o F = .malformed)
        ∧ (3 ≤ F.length → decodeFields o F
            = .error a (fc &&& 0x7F#8) (messageOf (byteAt F 2)) (byteAt F 2)))
    ∧ (2 ≤ F.length → fc.toNat < 0x80 → fc ≠ 0x03#8 → fc ≠ 0x04#8 → fc ≠ 0x06#8 → fc ≠ 0x10#8 →
        decodeFields o F = .unrecognized a fc)

/-- The response rows, 44_response_decoder R253 to R257: the record each row's fields give. All other
state stays. -/
def Obligations.ResponseRowsRecord : Prop :=
  ∀ (addr fc code bc v0 v1 : Byte) (word count : Half) (data : List Byte) (s : State),
    Records (.fields (.read addr fc bc (decodeValues s.cfgOrder data))) s
      (exec (.rspRead addr fc bc data) s)
    ∧ Records (.fields (.writeSingle addr 0x06#8 word (match s.cfgOrder with
        | .lowHigh => le16 v0 v1
        | .highLow => be16 v0 v1))) s (exec (.rspWriteSingle addr word v0 v1) s)
    ∧ Records (.fields (.writeMultiple addr 0x10#8 word count)) s
        (exec (.rspWriteMultiple addr word count) s)
    ∧ Records (.fields (.error addr 0x03#8 (messageOf code) code)) s (exec (.rspError83 addr code) s)
    ∧ Records (.fields (.error addr 0x04#8 (messageOf code) code)) s (exec (.rspError84 addr code) s)
    ∧ Records (.fields (.error addr 0x06#8 (messageOf code) code)) s (exec (.rspError86 addr code) s)
    ∧ Records (.fields (.error addr 0x10#8 (messageOf code) code)) s (exec (.rspError90 addr code) s)
    ∧ Records (.fields (.error addr (fc &&& 0x7F#8) (messageOf code) code)) s
        (exec (.rspErrorOther addr fc code) s)
    ∧ Records (.fields (.unrecognized addr fc)) s (exec (.rspUnrecognized addr fc) s)

/-- 44_response_decoder R259, the message table. -/
def Obligations.ErrorMessages : Prop :=
  messageOf 0x01#8 = .illegalFunction ∧ messageOf 0x02#8 = .illegalDataAddress
  ∧ messageOf 0x03#8 = .illegalDataValue ∧ messageOf 0x04#8 = .slaveDeviceFailure
  ∧ messageOf 0x05#8 = .acknowledge ∧ messageOf 0x06#8 = .slaveDeviceBusy
  ∧ messageOf 0x08#8 = .memoryParityError
  ∧ ∀ code : Byte, code = 0x00#8 ∨ code = 0x07#8 ∨ 0x09 ≤ code.toNat → messageOf code = .unknownError

/-- HEX, 44_response_decoder R270: two upper-case digits a byte in frame order, one space between bytes,
3n - 1 characters for n bytes. All other state stays. -/
def Obligations.HexText : Prop :=
  (∀ s : State,
    exec .hex s = .next { s with
      resText := toHexString s.inp, resKind := .text, phase := .idle, pending := none })
  ∧ toHexString [] = []
  ∧ ∀ (F : List Byte) (k : Nat), k < F.length →
    let digits := ['0', '1', '2', '3', '4', '5', '6', '7', '8', '9', 'A', 'B', 'C', 'D', 'E', 'F']
    (toHexString F).length = 3 * F.length - 1
    ∧ (toHexString F)[3 * k]? = digits[(byteAt F k).toNat / 16]?
    ∧ (toHexString F)[3 * k + 1]? = digits[(byteAt F k).toNat % 16]?
    ∧ (k + 1 < F.length → (toHexString F)[3 * k + 2]? = some ' ')

/-- What reset leaves (10_state R40). That the reset state carries the parameters 00_scope R7 lists as
defaults is the model's choice (log 1): R7 makes them arguments, and reset changes none
(70_reset_and_hazards R340). -/
def Obligations.ResetIsIdleWithNoResult : Prop :=
  State.reset.phase = .idle ∧ State.reset.resKind = .none ∧ State.reset.capReq = none
  ∧ State.reset.params.policy = .illegalFunction ∧ State.reset.params.wsBuildFc = .fc10
  ∧ State.reset.params.wmRangeCount = .byteCount ∧ State.reset.params.maxFrameLen = none

/-- Reset in any phase, 70_reset_and_hazards R340 and R342: IDLE, no result, no call in flight, the
instance parameters unchanged. The host's list is the model's choice (log 2, log 15). -/
def Obligations.ResetAbandonsTheOperation : Prop :=
  ∀ (s : State) (h : List HostEvent), s.host = .reset :: h → ∃ t, step s = .next t
    ∧ t.phase = .idle ∧ t.resKind = .none ∧ t.capReq = none ∧ t.pending = none ∧ t.capAns = none
    ∧ t.params = s.params ∧ t.host = h

/-- RESERVED_OP, 30_encoding R111: RES_KIND is REFUSED and no other state of the engine is touched. That
the answer is a next state, and not a stop of the machine, is the model's choice (log 14). -/
def Obligations.ReservedSelectorIsRefused : Prop :=
  (∀ (op : Byte) (s : State), exec (.reservedOp op) s = .next { s with resKind := .refused })
  ∧ ∀ (s : State) (c : Command) (h : List HostEvent), s.phase = .idle → s.host = .issue c :: h →
    c.op = 0x00#8 ∨ 0x0C ≤ c.op.toNat → step s = .next { s with host := h, resKind := .refused }

/-- 70_reset_and_hazards R350: an issue while another operation is in flight is REFUSED and changes
nothing else. That the answer is a next state, and shows at once, is the model's choice (log 14). -/
def Obligations.BusyIssueIsRefused : Prop :=
  ∀ (s : State) (c : Command) (h : List HostEvent), s.phase ≠ .idle → s.host = .issue c :: h →
    step s = .next { s with host := h, resKind := .refused }

/-- 60_exceptions R304 (2) and (4), 43_master_builder R220: a builder operand out of its width, or a frame
operand longer than P_MAX_FRAME_LEN, is REFUSED and changes nothing else. That the answer is a next
state is the model's choice (log 14). -/
def Obligations.UnfitOperandIsRefused : Prop :=
  ∀ (s : State) (c : Command) (h : List HostEvent), s.phase = .idle → s.host = .issue c :: h →
    (c.op = 0x05#8 ∨ c.op = 0x06#8) ∧ (256 ≤ c.addr ∨ 65536 ≤ c.start ∨ 65536 ≤ c.count)
      ∨ c.op = 0x07#8 ∧ (256 ≤ c.addr ∨ 65536 ≤ c.start ∨ 65536 ≤ c.value)
      ∨ c.op = 0x08#8 ∧ (256 ≤ c.addr ∨ 65536 ≤ c.start ∨ 65536 ≤ c.count ∨ 256 ≤ c.byteCount
          ∨ ∃ v ∈ c.values, 65536 ≤ v)
      ∨ (c.op = 0x01#8 ∨ c.op = 0x02#8 ∨ c.op = 0x03#8 ∨ c.op = 0x04#8 ∨ c.op = 0x09#8 ∨ c.op = 0x0A#8 ∨ c.op = 0x0B#8)
          ∧ (∃ m, s.params.maxFrameLen = some m ∧ m < c.frame.length) →
    step s = .next { s with host := h, resKind := .refused }

/-- An accepted issue latches the operands the operation takes, without changing their values, and sets
RES_KIND to NONE (10_state R22 to R26). -/
def Obligations.IssueLatchesOperands : Prop :=
  ∀ (s : State) (c : Command), c.accepted s.params = true →
    let t := s.accept c
    t.op = c.op ∧ t.cfgDevAddr = c.devAddr ∧ t.cfgTotal = c.total ∧ t.cfgOrder = c.order
    ∧ t.cfgBase = c.base ∧ t.resKind = .none ∧ t.phase = s.phase ∧ t.params = s.params ∧ t.host = s.host
    ∧ (c.op = 0x01#8 ∨ c.op = 0x02#8 ∨ c.op = 0x03#8 ∨ c.op = 0x04#8 ∨ c.op = 0x09#8 ∨ c.op = 0x0A#8 ∨ c.op = 0x0B#8 →
        t.inp = c.frame)
    ∧ (c.op = 0x05#8 ∨ c.op = 0x06#8 ∨ c.op = 0x07#8 ∨ c.op = 0x08#8 →
        t.bAddr.toNat = c.addr ∧ t.bStart.toNat = c.start)
    ∧ (c.op = 0x05#8 ∨ c.op = 0x06#8 ∨ c.op = 0x08#8 → t.bCount.toNat = c.count)
    ∧ (c.op = 0x07#8 → t.bValue.toNat = c.value)
    ∧ (c.op = 0x08#8 → t.bBc.toNat = c.byteCount ∧ t.bValues.map BitVec.toNat = c.values)

/-- A step at an accepted issue is the selected operation's meaning on the latched state (30_encoding
R110); for DFLD this holds although the step runs the frame's row (log 11). -/
def Obligations.StepRunsTheIssuedOperation : Prop :=
  ∀ (s : State) (c : Command) (h : List HostEvent), s.phase = .idle → s.host = .issue c :: h →
    c.accepted s.params = true → ¬ (c.op = 0x00#8 ∨ 0x0C ≤ c.op.toNat) →
    step s = exec (decodeOp c.op) (({ s with host := h } : State).accept c)

/-- A step while an operation is in flight is the meaning of the instruction PHASE is at: PROC in
VALIDATE, the row that the bytes of IN decode to in DISPATCH and CAP_IO, and in EMIT the error frame's
row or PROC; an answer is handed to the call first. The host's list, the size of a step and when the
format rows run are the model's choices (log 2, log 9, log 11). -/
def Obligations.StepRunsTheDecodedInstruction : Prop :=
  ∀ (s : State) (i : Instr),
    (s.phase = .validate ∧ i = .proc)
      ∨ ((s.phase = .dispatch ∨ s.phase = .capIO) ∧ decode .request s.inp = .ok i)
      ∨ (s.phase = .emit ∧ ∃ a fc code, s.pending = some (.error a fc code)
          ∧ i = .errorFrameEmit a (fc ||| 0x80#8) code)
      ∨ (s.phase = .emit ∧ ((∃ R, s.pending = some (.respond R)) ∨ (∃ w, s.pending = some (.suppress w)))
          ∧ i = .proc)
      ∨ (s.phase = .emit ∧ s.pending = some .decode ∧ decode .response s.inp = .ok i) →
    (s.host = [] → step s = exec i s)
    ∧ (∀ h, s.host = .quiet :: h → step s = exec i { s with host := h })
    ∧ (∀ a h, s.phase = .capIO → s.host = .answer a :: h →
        step s = exec i { s with host := h, capAns := some a })

/-- In IDLE the engine waits: without an issue or a reset nothing changes but the host's list, so the
result registers keep their values (10_state R26, D37). An answer no call has asked for is not read
(log 3). -/
def Obligations.IdleWaitsForTheHost : Prop :=
  ∀ s : State, s.phase = .idle →
    (s.host = [] → step s = .next s)
    ∧ (∀ h, s.host = .quiet :: h → step s = .next { s with host := h })
    ∧ (∀ a h, s.host = .answer a :: h → step s = .next { s with host := h })

/-- The invariant holds at reset. -/
def Obligations.InvariantAtReset : Prop := State.reset.Inv

/-- HEADLINE. Every step keeps the invariant: CAP_REQ is filled in CAP_IO and nowhere else, an outcome
waits in EMIT and nowhere else, RES_KIND in flight is NONE, or REFUSED after a busy issue (the model's
choice against 10_state R26, log 14), the latched header and fields and the call in flight are those of
the request in IN, and every frame emitted carries its checksum and is within P_MAX_FRAME_LEN. -/
def Obligations.StepKeepsTheInvariant : Prop :=
  ∀ s t : State, s.Inv → step s = .next t → t.Inv

/-- From a state that meets the invariant the machine goes on, but for one case, and in that case it does
fault: a capability that breaks its contract (60_exceptions R305). That nothing else stops it rests on the
model's choices that REFUSED is a next state (log 14) and that outOfSequence stands only where no run comes
(log 12). -/
def Obligations.OnlyABrokenContractStops : Prop :=
  ∀ s : State, s.Inv →
    ((∃ t, step s = .next t)
      ∨ (step s = .fault .capabilityContract ∧ s.phase = .capIO
          ∧ ∃ a h, s.host = .answer a :: h ∧ BreaksContract s a))
    ∧ ∀ a h, s.phase = .capIO → s.host = .answer a :: h → BreaksContract s a →
        step s = .fault .capabilityContract

/-- PROC from its issue to its result is R175: with a host that waits and a capability that answers within
its contract, five steps bring the engine back to IDLE with the frame of R175 (or REFUSED over
P_MAX_FRAME_LEN), or with NO_RESPONSE. The model's choices in it: the host's list (log 2), an answer that no
call awaits is not read (log 3), a step is a move of PHASE, so five steps (log 9), and REFUSED as a next
state for every frame too long (log 14, log 18). -/
def Obligations.ProcessAnswersAsTheRuleSays : Prop :=
  ∀ (s : State) (c : Command) (a : CapAnswer) (h : List HostEvent),
    s.phase = .idle → c.op = 0x04#8 → c.accepted s.params = true →
    s.host = [.issue c, .quiet, .quiet, .answer a, .quiet] ++ h →
    let plan := planOf s.params c.frame c.devAddr c.total c.order
    keepsContract a plan →
    ∃ t : State, Host.Core.run Sys2Proof.core 5 s = (.next t : Host.Outcome State Fault Refusal)
      ∧ t.phase = .idle ∧ t.host = h ∧ t.params = s.params ∧ t.capReq = none
      ∧ t.reading = readingOf s.params (sentBytes c.frame c.order a plan)

/-- PROC calls exactly what R175 says: after steps 1 to 4 the call of the plan is in flight in CAP_IO, with
the base passed on unchanged, or none is (20_memory R51, R52, R62, R66, R72). Three steps, and the host's
list they use up, are the model's choices (log 9, log 2). -/
def Obligations.ProcessCallsAsTheRuleSays : Prop :=
  ∀ (s : State) (c : Command) (h : List HostEvent),
    s.phase = .idle → c.op = 0x04#8 → c.accepted s.params = true →
    s.host = [.issue c, .quiet, .quiet] ++ h →
    ∃ t : State, Host.Core.run Sys2Proof.core 3 s = (.next t : Host.Outcome State Fault Refusal)
      ∧ t.capReq = (planOf s.params c.frame c.devAddr c.total c.order).call c.base
      ∧ (t.phase = .capIO ↔ t.capReq.isSome) ∧ t.host = h

/-- A call starts in DISPATCH only: a read by a read request that is no broadcast, a write by a write
request; so at most one call in a PROC, and none in any other operation (20_memory R51, R62, R72). -/
def Obligations.CallsComeFromRequestRows : Prop :=
  ∀ (s t : State) (r : CapReq), step s = .next t → s.capReq = none → t.capReq = some r →
    s.phase = .dispatch
    ∧ ((∃ addr offset count, r = .read s.cfgBase offset count ∧ addr ≠ 0#8
          ∧ (decode .request s.inp = .ok (.reqReadHolding addr offset count)
            ∨ decode .request s.inp = .ok (.reqReadInput addr offset count)))
      ∨ (∃ offset count bytes, r = .write s.cfgBase offset count bytes
          ∧ ((∃ addr v0 v1, decode .request s.inp = .ok (.reqWriteSingle addr offset v0 v1))
            ∨ (∃ addr rc bc data,
                decode .request s.inp = .ok (.reqWriteMultiple addr offset rc bc data)))))

/-- PHASE moves as 10_state R31 says, in every state and for every host; only a reset leaves a phase for
IDLE otherwise. -/
def Obligations.PhasesFollowInOrder : Prop :=
  ∀ s t : State, step s = .next t →
    s.phase.mayFollow t.phase ∨ (t.phase = .idle ∧ ∃ h, s.host = .reset :: h)

/-- No step changes an instance parameter (10_state R21; 70_reset_and_hazards R340). -/
def Obligations.ParametersNeverChange : Prop :=
  ∀ s t : State, step s = .next t → t.params = s.params

/-- The operands of the operation in flight are stable: only an issue in IDLE or a reset writes IN, OP, the
configuration or a builder operand (10_state R23 to R25; 42_slave_processor R192;
70_reset_and_hazards R352). -/
def Obligations.OperandsAreStable : Prop :=
  ∀ s t : State, step s = .next t →
    (∀ h, s.host ≠ .reset :: h) → (∀ c h, s.host = .issue c :: h → s.phase ≠ .idle) →
    t.op = s.op ∧ t.inp = s.inp ∧ t.cfgDevAddr = s.cfgDevAddr ∧ t.cfgTotal = s.cfgTotal
    ∧ t.cfgOrder = s.cfgOrder ∧ t.cfgBase = s.cfgBase ∧ t.bAddr = s.bAddr ∧ t.bStart = s.bStart
    ∧ t.bCount = s.bCount ∧ t.bValue = s.bValue ∧ t.bBc = s.bBc ∧ t.bValues = s.bValues

/-- The engine is stateless across calls (10_state R20): every operation but PROC ends in the step that
issues it, and what the host then reads depends on the command and the instance parameters alone,
whatever the two engines did before. For a reserved selector, operands that do not fit and a BWMR whose
precondition fails, that the answer is a next state with REFUSED is the model's choice (log 14). -/
def Obligations.OneStepOperationsAreStateless : Prop :=
  ∀ (s₁ s₂ : State) (c : Command) (h₁ h₂ : List HostEvent),
    s₁.phase = .idle → s₂.phase = .idle → s₁.params = s₂.params →
    s₁.host = .issue c :: h₁ → s₂.host = .issue c :: h₂ → decodeOp c.op ≠ .proc →
    ∃ t₁ t₂, step s₁ = .next t₁ ∧ step s₂ = .next t₂ ∧ t₁.phase = .idle ∧ t₂.phase = .idle
      ∧ t₁.reading = t₂.reading ∧ t₁.reading ≠ .none

/-- `swapPairs(B, k)` of 42_slave_processor R175, byte by byte: in every one of the first k pairs the two
bytes are exchanged, every byte from 2k on and the length stay. A read answer and the bytes of a write under
HighLow are swapped by it (R183, R186). -/
def Obligations.SwapPairsExchangesEachPair : Prop :=
  ∀ (k : Nat) (B : List Byte), 2 * k ≤ B.length →
    (swapPairs k B).length = B.length
    ∧ (∀ i, i < k → byteAt (swapPairs k B) (2 * i) = byteAt B (2 * i + 1)
        ∧ byteAt (swapPairs k B) (2 * i + 1) = byteAt B (2 * i))
    ∧ ∀ j, 2 * k ≤ j → byteAt (swapPairs k B) j = byteAt B j
end

