-- ==== Sys2Proof/Laws/Bytes.lean ====
section
/-! SUPPORT. Laws of bytes, fields, byte swaps, sealing and verifying. -/

namespace Sys2Proof.Machine

@[simp] theorem lo8_be16 (x y : Byte) : lo8 (be16 x y) = y := by
  have hx := x.isLt; have hy := y.isLt
  apply BitVec.eq_of_toNat_eq; simp [lo8, be16]; omega

@[simp] theorem hi8_be16 (x y : Byte) : hi8 (be16 x y) = x := by
  have hx := x.isLt; have hy := y.isLt
  apply BitVec.eq_of_toNat_eq; simp [hi8, be16, Nat.shiftRight_eq_div_pow]; omega

theorem be16_eq_le16 (x y : Byte) : be16 x y = le16 y x := rfl

@[simp] theorem lo8_le16 (x y : Byte) : lo8 (le16 x y) = x := lo8_be16 y x

@[simp] theorem hi8_le16 (x y : Byte) : hi8 (le16 x y) = y := hi8_be16 y x

@[simp] theorem be16_hi8_lo8 (v : Half) : be16 (hi8 v) (lo8 v) = v := by
  have hv := v.isLt
  apply BitVec.eq_of_toNat_eq; simp [hi8, lo8, be16, Nat.shiftRight_eq_div_pow]; omega

@[simp] theorem le16_lo8_hi8 (v : Half) : le16 (lo8 v) (hi8 v) = v := be16_hi8_lo8 v

@[simp] theorem decodeValue_encodeValue (o : ByteOrder) (v : Half) :
    decodeValue o ((encodeValue o v).getD 0 0) ((encodeValue o v).getD 1 0) = v := by
  cases o <;> simp [encodeValue, decodeValue]

@[simp] theorem encodeValue_length (o : ByteOrder) (v : Half) : (encodeValue o v).length = 2 := by
  cases o <;> rfl

@[simp] theorem encodeValues_length (o : ByteOrder) (vs : List Half) :
    (encodeValues o vs).length = 2 * vs.length := by
  induction vs with
  | nil => rfl
  | cons v vs ih =>
    simp only [encodeValues, List.flatMap_cons, List.length_append, encodeValue_length] at ih ⊢
    simp [ih]; omega

@[simp] theorem swapPairs_zero (B : List Byte) : swapPairs 0 B = B := by simp [swapPairs]

@[simp] theorem swapPairs_succ (k : Nat) (x y : Byte) (rest : List Byte) :
    swapPairs (k + 1) (x :: y :: rest) = y :: x :: swapPairs k rest := rfl

@[simp] theorem orderPayload_lowHigh (k : Nat) (B : List Byte) : orderPayload .lowHigh k B = B := rfl

@[simp] theorem orderPayload_highLow (k : Nat) (B : List Byte) :
    orderPayload .highLow k B = swapPairs k B := rfl

@[simp] theorem swapPairs_length (k : Nat) (B : List Byte) : (swapPairs k B).length = B.length := by
  induction k, B using swapPairs.induct with
  | case1 k x y rest ih => simp [swapPairs, ih]
  | case2 k B h => cases k with
    | zero => rfl
    | succ k =>
      match B with
      | [] => rfl
      | [_] => rfl
      | x :: y :: rest => exact (h k x y rest rfl rfl).elim

@[simp] theorem orderPayload_length (o : ByteOrder) (k : Nat) (B : List Byte) :
    (orderPayload o k B).length = B.length := by
  cases o <;> simp [orderPayload]

theorem sealed_eq (B : List Byte) : sealed B = B ++ [lo8 (crc B), hi8 (crc B)] := rfl

@[simp] theorem sealed_length (B : List Byte) : (sealed B).length = B.length + 2 := by
  simp [sealed]

@[simp] theorem covered_sealed (B : List Byte) : covered (sealed B) = B := by
  simp [covered, sealed]

theorem byteAt_append_left {B C : List Byte} {i : Nat} (h : i < B.length) :
    byteAt (B ++ C) i = byteAt B i := by
  simp [byteAt, List.getD_eq_getElem?_getD, List.getElem?_append_left h]

theorem byteAt_append_right {B C : List Byte} {i : Nat} (h : B.length ≤ i) :
    byteAt (B ++ C) i = byteAt C (i - B.length) := by
  simp [byteAt, List.getD_eq_getElem?_getD, List.getElem?_append_right h]

/-- Cutting out the middle of three parts. -/
theorem slice_middle {A D C : List Byte} {a b : Nat} (ha : A.length = a) (hb : a + D.length = b) :
    slice (A ++ (D ++ C)) a b = D := by
  subst ha hb
  simp [slice, List.take_append]

theorem byteAt_sealed {B : List Byte} {i : Nat} (h : i < B.length) : byteAt (sealed B) i = byteAt B i :=
  byteAt_append_left h

@[simp] theorem crcOk_sealed (B : List Byte) : crcOk (sealed B) = true := by
  have h0 : byteAt (sealed B) B.length = lo8 (crc B) := by
    rw [sealed_eq, byteAt_append_right (Nat.le_refl _)]; simp [byteAt]
  have h1 : byteAt (sealed B) (B.length + 1) = hi8 (crc B) := by
    rw [sealed_eq, byteAt_append_right (by omega)]; simp [byteAt]
  simp [crcOk, h0, h1]

/-- A frame that verifies is the seal of what its checksum covers. -/
theorem sealed_covered {F : List Byte} (h : crcOk F = true) : sealed (covered F) = F := by
  simp only [crcOk, Bool.and_eq_true, decide_eq_true_eq, beq_iff_eq] at h
  obtain ⟨⟨hl, h0⟩, h1⟩ := h
  have hs : F.drop (F.length - 2) = [byteAt F (F.length - 2), byteAt F (F.length - 1)] := by
    rw [List.drop_eq_getElem_cons (by omega), List.drop_eq_getElem_cons (by omega),
      List.drop_of_length_le (by omega)]
    simp only [byteAt, List.getD_eq_getElem?_getD]
    rw [List.getElem?_eq_getElem (by omega), List.getElem?_eq_getElem (by omega)]
    simp only [Option.getD_some]
    congr 3; omega
  rw [sealed_eq, ← h0, ← h1, ← hs]
  exact List.take_append_drop _ _

end Sys2Proof.Machine
end

