-- ==== Sys2Proof/Laws/State.lean ====
section
/-! SUPPORT. One lemma per field per update of State, so that no later proof unfolds a record update. `toRegs` stands for all the registers of `Regs` at once. -/

namespace Sys2Proof.Machine

@[simp] theorem State.refuse_toRegs (s : State) : (s.refuse).toRegs = s.toRegs := rfl
@[simp] theorem State.refuse_phase (s : State) : (s.refuse).phase = s.phase := rfl
@[simp] theorem State.refuse_resKind (s : State) : (s.refuse).resKind = .refused := rfl
@[simp] theorem State.refuse_capReq (s : State) : (s.refuse).capReq = s.capReq := rfl
@[simp] theorem State.refuse_capAns (s : State) : (s.refuse).capAns = s.capAns := rfl
@[simp] theorem State.refuse_pending (s : State) : (s.refuse).pending = s.pending := rfl
@[simp] theorem State.refuse_params (s : State) : (s.refuse).params = s.params := rfl
@[simp] theorem State.refuse_host (s : State) : (s.refuse).host = s.host := rfl
@[simp] theorem State.refuse_draws (s : State) : (s.refuse).draws = s.draws := rfl

@[simp] theorem State.forget_toRegs (s : State) : (s.forget).toRegs = Config.unspecified s.draws := rfl
@[simp] theorem State.forget_phase (s : State) : (s.forget).phase = s.phase := rfl
@[simp] theorem State.forget_resKind (s : State) : (s.forget).resKind = s.resKind := rfl
@[simp] theorem State.forget_capReq (s : State) : (s.forget).capReq = s.capReq := rfl
@[simp] theorem State.forget_capAns (s : State) : (s.forget).capAns = s.capAns := rfl
@[simp] theorem State.forget_pending (s : State) : (s.forget).pending = s.pending := rfl
@[simp] theorem State.forget_params (s : State) : (s.forget).params = s.params := rfl
@[simp] theorem State.forget_host (s : State) : (s.forget).host = s.host := rfl
@[simp] theorem State.forget_draws (s : State) : (s.forget).draws = s.draws + 1 := rfl

@[simp] theorem State.reboot_toRegs (s : State) : (s.reboot).toRegs = Config.unspecified s.draws := rfl
@[simp] theorem State.reboot_phase (s : State) : (s.reboot).phase = .idle := rfl
@[simp] theorem State.reboot_resKind (s : State) : (s.reboot).resKind = .none := rfl
@[simp] theorem State.reboot_capReq (s : State) : (s.reboot).capReq = none := rfl
@[simp] theorem State.reboot_capAns (s : State) : (s.reboot).capAns = none := rfl
@[simp] theorem State.reboot_pending (s : State) : (s.reboot).pending = none := rfl
@[simp] theorem State.reboot_params (s : State) : (s.reboot).params = s.params := rfl
@[simp] theorem State.reboot_host (s : State) : (s.reboot).host = s.host := rfl
@[simp] theorem State.reboot_draws (s : State) : (s.reboot).draws = s.draws + 1 := rfl

@[simp] theorem State.withHost_toRegs (s : State) (h : List HostEvent) : (s.withHost h).toRegs = s.toRegs := rfl
@[simp] theorem State.withHost_phase (s : State) (h : List HostEvent) : (s.withHost h).phase = s.phase := rfl
@[simp] theorem State.withHost_resKind (s : State) (h : List HostEvent) : (s.withHost h).resKind = s.resKind := rfl
@[simp] theorem State.withHost_capReq (s : State) (h : List HostEvent) : (s.withHost h).capReq = s.capReq := rfl
@[simp] theorem State.withHost_capAns (s : State) (h : List HostEvent) : (s.withHost h).capAns = s.capAns := rfl
@[simp] theorem State.withHost_pending (s : State) (h : List HostEvent) : (s.withHost h).pending = s.pending := rfl
@[simp] theorem State.withHost_params (s : State) (h : List HostEvent) : (s.withHost h).params = s.params := rfl
@[simp] theorem State.withHost_host (s : State) (h : List HostEvent) : (s.withHost h).host = h := rfl
@[simp] theorem State.withHost_draws (s : State) (h : List HostEvent) : (s.withHost h).draws = s.draws := rfl

@[simp] theorem State.answered_toRegs (s : State) (a : CapAnswer) : (s.answered a).toRegs = s.toRegs := rfl
@[simp] theorem State.answered_phase (s : State) (a : CapAnswer) : (s.answered a).phase = s.phase := rfl
@[simp] theorem State.answered_resKind (s : State) (a : CapAnswer) : (s.answered a).resKind = s.resKind := rfl
@[simp] theorem State.answered_capReq (s : State) (a : CapAnswer) : (s.answered a).capReq = s.capReq := rfl
@[simp] theorem State.answered_capAns (s : State) (a : CapAnswer) : (s.answered a).capAns = some a := rfl
@[simp] theorem State.answered_pending (s : State) (a : CapAnswer) : (s.answered a).pending = s.pending := rfl
@[simp] theorem State.answered_params (s : State) (a : CapAnswer) : (s.answered a).params = s.params := rfl
@[simp] theorem State.answered_host (s : State) (a : CapAnswer) : (s.answered a).host = s.host := rfl
@[simp] theorem State.answered_draws (s : State) (a : CapAnswer) : (s.answered a).draws = s.draws := rfl

@[simp] theorem State.call_toRegs (s : State) (r : CapReq) : (s.call r).toRegs = s.toRegs := rfl
@[simp] theorem State.call_phase (s : State) (r : CapReq) : (s.call r).phase = .capIO := rfl
@[simp] theorem State.call_resKind (s : State) (r : CapReq) : (s.call r).resKind = s.resKind := rfl
@[simp] theorem State.call_capReq (s : State) (r : CapReq) : (s.call r).capReq = some r := rfl
@[simp] theorem State.call_capAns (s : State) (r : CapReq) : (s.call r).capAns = none := rfl
@[simp] theorem State.call_pending (s : State) (r : CapReq) : (s.call r).pending = s.pending := rfl
@[simp] theorem State.call_params (s : State) (r : CapReq) : (s.call r).params = s.params := rfl
@[simp] theorem State.call_host (s : State) (r : CapReq) : (s.call r).host = s.host := rfl
@[simp] theorem State.call_draws (s : State) (r : CapReq) : (s.call r).draws = s.draws := rfl

@[simp] theorem State.conclude_toRegs (s : State) (p : Pending) : (s.conclude p).toRegs = s.toRegs := rfl
@[simp] theorem State.conclude_phase (s : State) (p : Pending) : (s.conclude p).phase = .emit := rfl
@[simp] theorem State.conclude_resKind (s : State) (p : Pending) : (s.conclude p).resKind = s.resKind := rfl
@[simp] theorem State.conclude_capReq (s : State) (p : Pending) : (s.conclude p).capReq = none := rfl
@[simp] theorem State.conclude_capAns (s : State) (p : Pending) : (s.conclude p).capAns = none := rfl
@[simp] theorem State.conclude_pending (s : State) (p : Pending) : (s.conclude p).pending = some p := rfl
@[simp] theorem State.conclude_params (s : State) (p : Pending) : (s.conclude p).params = s.params := rfl
@[simp] theorem State.conclude_host (s : State) (p : Pending) : (s.conclude p).host = s.host := rfl
@[simp] theorem State.conclude_draws (s : State) (p : Pending) : (s.conclude p).draws = s.draws := rfl

@[simp] theorem State.finish_toRegs (s : State) (k : ResultKind) : (s.finish k).toRegs = s.toRegs := rfl
@[simp] theorem State.finish_phase (s : State) (k : ResultKind) : (s.finish k).phase = .idle := rfl
@[simp] theorem State.finish_resKind (s : State) (k : ResultKind) : (s.finish k).resKind = k := rfl
@[simp] theorem State.finish_capReq (s : State) (k : ResultKind) : (s.finish k).capReq = s.capReq := rfl
@[simp] theorem State.finish_capAns (s : State) (k : ResultKind) : (s.finish k).capAns = s.capAns := rfl
@[simp] theorem State.finish_pending (s : State) (k : ResultKind) : (s.finish k).pending = none := rfl
@[simp] theorem State.finish_params (s : State) (k : ResultKind) : (s.finish k).params = s.params := rfl
@[simp] theorem State.finish_host (s : State) (k : ResultKind) : (s.finish k).host = s.host := rfl
@[simp] theorem State.finish_draws (s : State) (k : ResultKind) : (s.finish k).draws = s.draws := rfl

@[simp] theorem State.accept_phase (c : Command) (s : State) : (s.accept c).phase = s.phase := rfl
@[simp] theorem State.accept_resKind (c : Command) (s : State) : (s.accept c).resKind = .none := rfl
@[simp] theorem State.accept_capReq (c : Command) (s : State) : (s.accept c).capReq = s.capReq := rfl
@[simp] theorem State.accept_capAns (c : Command) (s : State) : (s.accept c).capAns = s.capAns := rfl
@[simp] theorem State.accept_pending (c : Command) (s : State) : (s.accept c).pending = s.pending := rfl
@[simp] theorem State.accept_params (c : Command) (s : State) : (s.accept c).params = s.params := rfl
@[simp] theorem State.accept_host (c : Command) (s : State) : (s.accept c).host = s.host := rfl
@[simp] theorem State.accept_draws (c : Command) (s : State) : (s.accept c).draws = s.draws + 1 := rfl
@[simp] theorem State.accept_op (c : Command) (s : State) : (s.accept c).op = c.op := rfl
@[simp] theorem State.accept_cfgDevAddr (c : Command) (s : State) : (s.accept c).cfgDevAddr = c.devAddr := rfl
@[simp] theorem State.accept_cfgTotal (c : Command) (s : State) : (s.accept c).cfgTotal = c.total := rfl
@[simp] theorem State.accept_cfgOrder (c : Command) (s : State) : (s.accept c).cfgOrder = c.order := rfl
@[simp] theorem State.accept_cfgBase (c : Command) (s : State) : (s.accept c).cfgBase = c.base := rfl

theorem State.accept_inp (c : Command) (s : State) (h : takesFrame (decodeOp c.op) = true) :
    (s.accept c).inp = c.frame := by
  simp [State.accept, h]

end Sys2Proof.Machine
end

