-- ==== Sys2Proof/Laws/Ops.lean ====
section
/-! SUPPORT. One lemma per shared operation: everything it can answer. Later proofs cite these instead of unfolding the operation. -/

namespace Sys2Proof.Machine

theorem emitFrame_eq (B : List Byte) (s : State) :
    emitFrame B s = .next
      (if Params.fits s.params (sealed B).length then
        { s.finish .frame with acc := crc B, resFrame := sealed B }
      else { s.finish .refused with acc := crc B }) := by
  unfold emitFrame; split <;> rfl

theorem emitVerdict_eq (v : Verdict) (s : State) :
    emitVerdict v s = .next { s.finish .verdict with resVerdict := v } := rfl

theorem emitRecord_eq (r : DecoderOutcome) (s : State) :
    emitRecord r s = .next { s.finish .record with resRecord := r } := rfl

theorem raiseDrop_eq (r : SilenceReason) (s : State) : raiseDrop r s = .next (s.conclude (.suppress r)) :=
  rfl

theorem raiseError_eq (a fc code : Byte) (s : State) :
    raiseError a fc code s = .next (s.conclude (.error a fc code)) := rfl

/-- A request row's answer in DISPATCH comes from its first half, in CAP_IO from its second. -/
theorem inDispatch_next {f g : State → Result} {s t : State} (h : inDispatch f g s = .next t) :
    (s.phase = .dispatch ∧ f s = .next t) ∨ (s.phase = .capIO ∧ g s = .next t) := by
  unfold inDispatch at h
  cases hp : s.phase <;> simp [hp] at h
  · exact .inl ⟨rfl, h⟩
  · exact .inr ⟨rfl, h⟩

/-- DISPATCH of a read: out of range, broadcast, or the call. It always goes on. -/
theorem readDispatch_cases (addr fc : Byte) (start count : Half) (s : State) :
    (s.cfgTotal.toNat < start.toNat + count.toNat
      ∧ readDispatch addr fc start count s
        = .next ({ s with lStart := start, lCount := count }.conclude (.error addr fc 0x02#8)))
    ∨ (start.toNat + count.toNat ≤ s.cfgTotal.toNat ∧ addr = 0#8
      ∧ readDispatch addr fc start count s
        = .next ({ s with lStart := start, lCount := count }.conclude (.suppress .broadcast)))
    ∨ (start.toNat + count.toNat ≤ s.cfgTotal.toNat ∧ addr ≠ 0#8
      ∧ readDispatch addr fc start count s
        = .next ({ s with lStart := start, lCount := count }.call (.read s.cfgBase start count))) := by
  unfold readDispatch
  by_cases h : s.cfgTotal.toNat < start.toNat + count.toNat
  · exact .inl ⟨h, by simp [h]; rfl⟩
  · by_cases ha : addr = 0#8
    · exact .inr (.inl ⟨by omega, ha, by simp [h, ha]; rfl⟩)
    · exact .inr (.inr ⟨by omega, ha, by simp [h, ha]⟩)

/-- CAP_IO of a read: the wait, the contract's fault, the forwarded code, or the response. -/
theorem readResume_cases (s : State) :
    (s.capAns = none ∧ readResume s = .next s)
    ∨ ∃ a, s.capAns = some a ∧
      ((a.breaksReadContract s.lCount = true ∧ readResume s = .fault .capabilityContract)
      ∨ (a.breaksReadContract s.lCount = false ∧ a.code ≠ 0
        ∧ readResume s = .next (s.conclude (.error s.lAddr s.lFc (BitVec.ofNat 8 a.code))))
      ∨ (a.breaksReadContract s.lCount = false ∧ a.code = 0
        ∧ readResume s = .next
          ({ s with payload := orderPayload s.cfgOrder s.lCount.toNat a.bytes }.conclude
            (.respond ([s.lAddr, s.lFc, BitVec.ofNat 8 (2 * s.lCount.toNat)]
              ++ orderPayload s.cfgOrder s.lCount.toNat a.bytes))))) := by
  unfold readResume
  cases ha : s.capAns with
  | none => exact .inl ⟨rfl, rfl⟩
  | some a =>
    refine .inr ⟨a, rfl, ?_⟩
    by_cases hb : a.breaksReadContract s.lCount = true
    · exact .inl ⟨hb, by simp [hb]⟩
    · by_cases hc : a.code = 0
      · exact .inr (.inr ⟨by simpa using hb, hc, by simp [hb, hc]⟩)
      · exact .inr (.inl ⟨by simpa using hb, hc, by simp [hb, hc]; rfl⟩)

/-- CAP_IO of a write: the wait, the contract's fault, a broadcast's silence, the forwarded code, or the
echo. -/
theorem writeResume_cases (s : State) :
    (s.capAns = none ∧ writeResume s = .next s)
    ∨ ∃ a, s.capAns = some a ∧
      ((256 ≤ a.code ∧ writeResume s = .fault .capabilityContract)
      ∨ (a.code < 256 ∧ s.lBcast = true ∧ writeResume s = .next (s.conclude (.suppress .broadcast)))
      ∨ (a.code < 256 ∧ s.lBcast = false ∧ a.code ≠ 0
        ∧ writeResume s = .next (s.conclude (.error s.lAddr s.lFc (BitVec.ofNat 8 a.code))))
      ∨ (s.lBcast = false ∧ a.code = 0
        ∧ writeResume s = .next (s.conclude (.respond (s.inp.take 6))))) := by
  unfold writeResume
  cases ha : s.capAns with
  | none => exact .inl ⟨rfl, rfl⟩
  | some a =>
    refine .inr ⟨a, rfl, ?_⟩
    by_cases hb : 256 ≤ a.code
    · exact .inl ⟨hb, by simp [CapAnswer.breaksWriteContract, hb]⟩
    · have hb' : a.breaksWriteContract = false := by simp [CapAnswer.breaksWriteContract]; omega
      cases hl : s.lBcast with
      | true => exact .inr (.inl ⟨by omega, rfl, by simp [hb']; rfl⟩)
      | false =>
        by_cases hc : a.code = 0
        · exact .inr (.inr (.inr ⟨rfl, hc, by simp [hb', hc]⟩))
        · exact .inr (.inr (.inl ⟨by omega, rfl, hc, by simp [hb', hc]; rfl⟩))

/-- DISPATCH of a write-multiple: out of range, or the call. It always goes on. -/
theorem writeMultipleDispatch_cases (addr : Byte) (start : Half) (bc : Byte) (data : List Byte)
    (s : State) :
    (s.cfgTotal.toNat < start.toNat + wmRange s.params.wmRangeCount bc
      ∧ writeMultipleDispatch addr start bc data s
        = .next ({ s with lStart := start, lBc := bc }.conclude (.error addr 0x10#8 0x02#8)))
    ∨ (start.toNat + wmRange s.params.wmRangeCount bc ≤ s.cfgTotal.toNat
      ∧ writeMultipleDispatch addr start bc data s
        = writeCall start (BitVec.ofNat 16 (bc.toNat / 2))
            (orderPayload s.cfgOrder (bc.toNat / 2) (data.take (2 * (bc.toNat / 2))))
            { s with lStart := start, lBc := bc }) := by
  unfold writeMultipleDispatch
  by_cases h : s.cfgTotal.toNat < start.toNat + wmRange s.params.wmRangeCount bc
  · exact .inl ⟨h, by simp [h]; rfl⟩
  · exact .inr ⟨by omega, by simp [h]⟩

/-- VALIDATE: dropped as malformed, dropped as another device's, or on to DISPATCH. It always goes on. -/
theorem procValidate_cases (s : State) :
    let cls := classifyRequest s.params.policy s.inp
    let checked : State := { s with acc := accAfterCheck cls.ranChecksum s.inp s.acc }
    let latched : State := { checked with
      lAddr := byteAt s.inp 0, lFc := byteAt s.inp 1, lBcast := byteAt s.inp 0 == 0#8 }
    (∃ r, cls = .invalid r ∧ procValidate s = .next (checked.conclude (.suppress (.malformed r))))
    ∨ ((cls = .valid ∨ cls = .unsupported) ∧ byteAt s.inp 0 ≠ 0#8 ∧ byteAt s.inp 0 ≠ s.cfgDevAddr
      ∧ procValidate s = .next (latched.conclude (.suppress .notAddressed)))
    ∨ ((cls = .valid ∨ cls = .unsupported) ∧ (byteAt s.inp 0 = 0#8 ∨ byteAt s.inp 0 = s.cfgDevAddr)
      ∧ procValidate s = .next { latched with phase := .dispatch }) := by
  intro cls checked latched
  unfold procValidate
  have hl : ∀ c, c = .valid ∨ c = .unsupported → cls = c → _ := fun c hc h =>
    (show (byteAt s.inp 0 ≠ 0#8 ∧ byteAt s.inp 0 ≠ s.cfgDevAddr)
      ∨ (byteAt s.inp 0 = 0#8 ∨ byteAt s.inp 0 = s.cfgDevAddr) by tauto)
  cases hc : classifyRequest s.params.policy s.inp with
  | invalid r => exact .inl ⟨r, hc, by simp only [checked, cls, hc]; rfl⟩
  | valid =>
    rcases hl _ (.inl rfl) hc with ⟨h1, h2⟩ | h
    · exact .inr (.inl ⟨.inl hc, h1, h2, by simp [latched, checked, cls, hc, h1, h2]; rfl⟩)
    · refine .inr (.inr ⟨.inl hc, h, ?_⟩)
      rcases h with h | h <;> simp [latched, checked, cls, hc, h]
  | unsupported =>
    rcases hl _ (.inr rfl) hc with ⟨h1, h2⟩ | h
    · exact .inr (.inl ⟨.inr hc, h1, h2, by simp [latched, checked, cls, hc, h1, h2]; rfl⟩)
    · refine .inr (.inr ⟨.inr hc, h, ?_⟩)
      rcases h with h | h <;> simp [latched, checked, cls, hc, h]

/-- EMIT of PROC, by what waits there. -/
theorem procEmit_cases (s : State) :
    (∃ R, s.pending = some (.respond R) ∧ procEmit s = emitFrame R s)
    ∨ (∃ a fc code, s.pending = some (.error a fc code)
        ∧ procEmit s = emitFrame [a, fc ||| 0x80#8, code] s)
    ∨ (∃ r, s.pending = some (.suppress r)
        ∧ procEmit s = .next { s.finish .noResponse with resReason := r })
    ∨ ((s.pending = none ∨ s.pending = some .decode) ∧ procEmit s = .fault .outOfSequence) := by
  unfold procEmit
  rcases hp : s.pending with _ | p
  · simp
  · cases p <;> simp

end Sys2Proof.Machine
end

