-- ==== Sys2Proof/Laws/Exec.lean ====
section
/-! SUPPORT. What an instruction can do, said once: the instructions that end an operation, and the moves of PROC and its request rows. -/

namespace Sys2Proof.Machine

/-- The operand registers of two states agree (10_state R22 to R25). -/
structure SameOperands (s t : State) : Prop where
  op : t.op = s.op
  inp : t.inp = s.inp
  devAddr : t.cfgDevAddr = s.cfgDevAddr
  total : t.cfgTotal = s.cfgTotal
  order : t.cfgOrder = s.cfgOrder
  base : t.cfgBase = s.cfgBase
  addr : t.bAddr = s.bAddr
  start : t.bStart = s.bStart
  count : t.bCount = s.bCount
  value : t.bValue = s.bValue
  bc : t.bBc = s.bBc
  values : t.bValues = s.bValues

/-- What every instruction that ends an operation does: IDLE, a result, nothing waiting; every frame
sealed and within the bound. -/
structure Ends (s t : State) : Prop where
  phase : t.phase = .idle
  pending : t.pending = none
  capReq : t.capReq = s.capReq
  capAns : t.capAns = s.capAns
  params : t.params = s.params
  host : t.host = s.host
  draws : t.draws = s.draws
  operands : SameOperands s t
  result : t.resKind ≠ .none
  frame : t.resKind = .frame → crcOk t.resFrame = true ∧ Params.fits t.params t.resFrame.length = true

theorem SameOperands.refl (s : State) : SameOperands s s := by constructor <;> rfl

theorem emitFrame_ends {B : List Byte} {s t : State} (h : emitFrame B s = .next t) : Ends s t := by
  rw [emitFrame_eq] at h
  injection h with h
  subst h
  split
  · rename_i hf
    refine ⟨rfl, rfl, rfl, rfl, rfl, rfl, rfl, by constructor <;> rfl, by simp, fun _ => ?_⟩
    exact ⟨crcOk_sealed B, hf⟩
  · exact ⟨rfl, rfl, rfl, rfl, rfl, rfl, rfl, by constructor <;> rfl, by simp, by simp⟩

theorem emitRecord_ends {r : DecoderOutcome} {s t : State} (h : emitRecord r s = .next t) : Ends s t := by
  injection h with h
  subst h
  exact ⟨rfl, rfl, rfl, rfl, rfl, rfl, rfl, by constructor <;> rfl, by simp, by simp⟩

theorem emitVerdict_ends {v : Verdict} {s t : State} (h : emitVerdict v s = .next t) : Ends s t := by
  injection h with h
  subst h
  exact ⟨rfl, rfl, rfl, rfl, rfl, rfl, rfl, by constructor <;> rfl, by simp, by simp⟩

/-- Every instruction but PROC, RESERVED_OP and the request rows ends its operation. -/
def endsOperation : Instr → Bool
  | .proc => false
  | .reservedOp _ => false
  | .reqReadHolding _ _ _ => false
  | .reqReadInput _ _ _ => false
  | .reqWriteSingle _ _ _ _ => false
  | .reqWriteMultiple _ _ _ _ _ => false
  | .reqUnsupported _ _ _ => false
  | .crc => true
  | .vreq => true
  | .vrsp => true
  | .brhr => true
  | .brir => true
  | .bwsr => true
  | .bwmr => true
  | .drsp => true
  | .dfld => true
  | .hex => true
  | .rspRead _ _ _ _ => true
  | .rspWriteSingle _ _ _ _ => true
  | .rspWriteMultiple _ _ _ => true
  | .rspError83 _ _ => true
  | .rspError84 _ _ => true
  | .rspError86 _ _ => true
  | .rspError90 _ _ => true
  | .rspErrorOther _ _ _ => true
  | .rspUnrecognized _ _ => true
  | .errorFrameEmit _ _ _ => true

theorem execVreq_ends {s t : State} (h : execVreq s = .next t) : Ends s t := by
  obtain ⟨h1, h2, h3, h4, h5, h6, h7, h8, h9, h10⟩ := emitVerdict_ends h
  exact ⟨h1, h2, h3, h4, h5, h6, h7, ⟨h8.1, h8.2, h8.3, h8.4, h8.5, h8.6, h8.7, h8.8, h8.9, h8.10, h8.11, h8.12⟩, h9, h10⟩

theorem execDrsp_ends {s t : State} (h : execDrsp s = .next t) : Ends s t := by
  unfold execDrsp at h
  split at h
  · exact emitRecord_ends h
  · dsimp only at h
    split at h
    all_goals
      obtain ⟨h1, h2, h3, h4, h5, h6, h7, h8, h9, h10⟩ := emitRecord_ends h
      exact ⟨h1, h2, h3, h4, h5, h6, h7, ⟨h8.1, h8.2, h8.3, h8.4, h8.5, h8.6, h8.7, h8.8, h8.9, h8.10, h8.11, h8.12⟩, h9, h10⟩

theorem execBwmr_ends {s t : State} (h : execBwmr s = .next t) : Ends s t := by
  unfold execBwmr at h
  split at h
  · exact emitFrame_ends h
  · injection h with h
    subst h
    exact ⟨rfl, rfl, rfl, rfl, rfl, rfl, rfl, by constructor <;> rfl, by simp, by simp⟩

/-- The inversion lemma of the instructions that end an operation. -/
theorem exec_ends {i : Instr} (hi : endsOperation i = true) {s t : State} (h : exec i s = .next t) :
    Ends s t := by
  cases i <;> simp only [endsOperation, Bool.false_eq_true] at hi
  case crc => injection h with h; subst h; exact ⟨rfl, rfl, rfl, rfl, rfl, rfl, rfl, by constructor <;> rfl, by simp, by simp⟩
  case hex => injection h with h; subst h; exact ⟨rfl, rfl, rfl, rfl, rfl, rfl, rfl, by constructor <;> rfl, by simp, by simp⟩
  case vreq => exact execVreq_ends h
  case vrsp => exact emitVerdict_ends h
  case brhr => exact emitFrame_ends h
  case brir => exact emitFrame_ends h
  case bwsr => exact emitFrame_ends h
  case bwmr => exact execBwmr_ends h
  case drsp => exact execDrsp_ends h
  case errorFrameEmit => exact emitFrame_ends h
  all_goals exact emitRecord_ends h

/-- The instructions that end an operation always go on. -/
theorem exec_ends_next {i : Instr} (hi : endsOperation i = true) (s : State) :
    ∃ t, exec i s = .next t := by
  cases i <;> simp only [endsOperation, Bool.false_eq_true] at hi
  case brhr => exact ⟨_, emitFrame_eq _ _⟩
  case brir => exact ⟨_, emitFrame_eq _ _⟩
  case bwsr => exact ⟨_, emitFrame_eq _ _⟩
  case errorFrameEmit => exact ⟨_, emitFrame_eq _ _⟩
  case bwmr =>
    by_cases h : bwmrPrecondition s.bBc s.bValues
    · exact ⟨_, by simp only [exec, execBwmr, h, if_true]; exact emitFrame_eq _ _⟩
    · exact ⟨_, by simp only [exec, execBwmr, h]; rfl⟩
  case drsp =>
    simp only [exec, execDrsp]
    split
    · exact ⟨_, rfl⟩
    · split <;> exact ⟨_, rfl⟩
  all_goals exact ⟨_, rfl⟩

/-- Every response row ends its operation. -/
theorem decodeResponse_ends {F : List Byte} {i : Instr} (h : decodeResponse F = .ok i) :
    endsOperation i = true := by
  simp only [decodeResponse, errorRow] at h
  repeat' split at h
  all_goals first
    | (injection h with h; subst h; rfl)
    | cases h

/-- What an operation that is not reserved is. -/
theorem decodeOp_cases (op : Byte) :
    decodeOp op = .proc ∨ endsOperation (decodeOp op) = true ∨ decodeOp op = .reservedOp op := by
  simp only [decodeOp]
  repeat' split
  all_goals simp [endsOperation]

/-- The reserved selectors are those of 30_encoding R111. -/
theorem decodeOp_reserved {op x : Byte} (h : decodeOp op = .reservedOp x) :
    x = op ∧ (op = 0x00#8 ∨ 0x0C ≤ op.toNat) := by
  by_cases hr : op = 0x00#8 ∨ 0x0C ≤ op.toNat
  · refine ⟨?_, hr⟩
    rcases decodeOp_cases op with o | o | o <;> rw [h] at o
    · cases o
    · cases o
    · injection o
  · exfalso
    simp only [not_or, not_le] at hr
    obtain ⟨h0, h1⟩ := hr
    have h0' : op.toNat ≠ 0 := fun e => h0 (BitVec.eq_of_toNat_eq e)
    have e : op = BitVec.ofNat 8 op.toNat := by simp
    generalize op.toNat = n at *
    subst e
    interval_cases n <;> simp [decodeOp] at h0' h

end Sys2Proof.Machine
end

