-- ==== Sys2Proof/Laws/PerInstr.lean ====
section
/-! SUPPORT. Statements made once per instruction. EncodeShape: a selector is one byte, and every frame carries its checksum (30_encoding R110, 40_crc R131). -/

namespace Sys2Proof.Laws.EncodeShape

/-- The shape of an encoding. -/
def Statement (i : Instr) : Prop :=
  (i.space = .selector → (encode i).length = 1)
    ∧ (i.space ≠ .selector → 4 ≤ (encode i).length ∧ Machine.crcOk (encode i) = true)

theorem of_selector {i : Instr} (h : i.space = .selector) (l : (encode i).length = 1) : Statement i :=
  ⟨fun _ => l, fun n => (n h).elim⟩

theorem of_sealed {i : Instr} (h : i.space ≠ .selector) {B : List Byte} (e : encode i = Machine.sealed B)
    (l : 2 ≤ B.length) : Statement i :=
  ⟨fun n => (h n).elim, fun _ => ⟨by rw [e, Machine.sealed_length]; omega, by rw [e, Machine.crcOk_sealed]⟩⟩

theorem crc :
    Statement .crc := of_selector rfl rfl
theorem vreq :
    Statement .vreq := of_selector rfl rfl
theorem vrsp :
    Statement .vrsp := of_selector rfl rfl
theorem proc :
    Statement .proc := of_selector rfl rfl
theorem brhr :
    Statement .brhr := of_selector rfl rfl
theorem brir :
    Statement .brir := of_selector rfl rfl
theorem bwsr :
    Statement .bwsr := of_selector rfl rfl
theorem bwmr :
    Statement .bwmr := of_selector rfl rfl
theorem drsp :
    Statement .drsp := of_selector rfl rfl
theorem dfld :
    Statement .dfld := of_selector rfl rfl
theorem hex :
    Statement .hex := of_selector rfl rfl
theorem reservedOp (op : Byte) :
    Statement (.reservedOp op) := of_selector rfl rfl
theorem reqReadHolding (addr : Byte) (start : Half) (count : Half) :
    Statement (.reqReadHolding addr start count) := of_sealed nofun rfl (by simp)
theorem reqReadInput (addr : Byte) (start : Half) (count : Half) :
    Statement (.reqReadInput addr start count) := of_sealed nofun rfl (by simp)
theorem reqWriteSingle (addr : Byte) (reg : Half) (value0 : Byte) (value1 : Byte) :
    Statement (.reqWriteSingle addr reg value0 value1) := of_sealed nofun rfl (by simp)
theorem reqWriteMultiple (addr : Byte) (start : Half) (registerCount : Half) (byteCount : Byte) (data : List Byte) :
    Statement (.reqWriteMultiple addr start registerCount byteCount data) := of_sealed nofun rfl (by simp)
theorem reqUnsupported (addr : Byte) (fc : Byte) (body : List Byte) :
    Statement (.reqUnsupported addr fc body) := of_sealed nofun rfl (by simp)
theorem rspRead (addr : Byte) (fc : Byte) (byteCount : Byte) (data : List Byte) :
    Statement (.rspRead addr fc byteCount data) := of_sealed nofun rfl (by simp)
theorem rspWriteSingle (addr : Byte) (reg : Half) (value0 : Byte) (value1 : Byte) :
    Statement (.rspWriteSingle addr reg value0 value1) := of_sealed nofun rfl (by simp)
theorem rspWriteMultiple (addr : Byte) (start : Half) (registerCount : Half) :
    Statement (.rspWriteMultiple addr start registerCount) := of_sealed nofun rfl (by simp)
theorem rspError83 (addr : Byte) (code : Byte) :
    Statement (.rspError83 addr code) := of_sealed nofun rfl (by simp)
theorem rspError84 (addr : Byte) (code : Byte) :
    Statement (.rspError84 addr code) := of_sealed nofun rfl (by simp)
theorem rspError86 (addr : Byte) (code : Byte) :
    Statement (.rspError86 addr code) := of_sealed nofun rfl (by simp)
theorem rspError90 (addr : Byte) (code : Byte) :
    Statement (.rspError90 addr code) := of_sealed nofun rfl (by simp)
theorem rspErrorOther (addr : Byte) (fc : Byte) (code : Byte) :
    Statement (.rspErrorOther addr fc code) := of_sealed nofun rfl (by simp)
theorem rspUnrecognized (addr : Byte) (fc : Byte) :
    Statement (.rspUnrecognized addr fc) := of_sealed nofun rfl (by simp)
theorem errorFrameEmit (addr : Byte) (efc : Byte) (code : Byte) :
    Statement (.errorFrameEmit addr efc code) := of_sealed nofun rfl (by simp)

end Sys2Proof.Laws.EncodeShape
end

