-- ==== Sys2Proof/Laws/Step.lean ====
section
/-! SUPPORT. What a step can do, said once: the cases of a step, and the moves of PROC by phase. Every invariant comes from these. -/

namespace Sys2Proof.Machine

/-- What a request that decodes is: long enough, of a fitting length, verified, and its fields. -/
theorem decodeRequest_ok {F : List Byte} {i : Instr} (h : decodeRequest F = .ok i) :
    2 ≤ F.length ∧ requestLengthFits F = true ∧ crcOk F = true ∧ i = requestFields F := by
  unfold decodeRequest at h
  split at h
  · cases h
  split at h
  · cases h
  split at h
  · cases h
  rename_i h2 hl hc
  injection h with h
  exact ⟨by omega, by simpa using hl, by simpa using hc, h.symm⟩

theorem toOption_eq_some {F : List Byte} {i : Instr} (h : (decodeRequest F).toOption = some i) :
    decodeRequest F = .ok i := by
  cases hd : decodeRequest F with
  | error e => simp [hd, Except.toOption] at h
  | ok j => simp [hd, Except.toOption] at h; rw [h]

/-- The five request rows, by byte 1. -/
theorem requestFields_cases (F : List Byte) :
    (byteAt F 1 = 0x03#8 ∧ requestFields F
      = .reqReadHolding (byteAt F 0) (be16 (byteAt F 2) (byteAt F 3)) (be16 (byteAt F 4) (byteAt F 5)))
    ∨ (byteAt F 1 = 0x04#8 ∧ requestFields F
      = .reqReadInput (byteAt F 0) (be16 (byteAt F 2) (byteAt F 3)) (be16 (byteAt F 4) (byteAt F 5)))
    ∨ (byteAt F 1 = 0x06#8 ∧ requestFields F
      = .reqWriteSingle (byteAt F 0) (be16 (byteAt F 2) (byteAt F 3)) (byteAt F 4) (byteAt F 5))
    ∨ (byteAt F 1 = 0x10#8 ∧ requestFields F
      = .reqWriteMultiple (byteAt F 0) (be16 (byteAt F 2) (byteAt F 3)) (le16 (byteAt F 4) (byteAt F 5))
          (byteAt F 6) (slice F 7 (7 + (byteAt F 6).toNat)))
    ∨ (supportedFc (byteAt F 1) = false ∧ requestFields F
      = .reqUnsupported (byteAt F 0) (byteAt F 1) (slice F 2 (F.length - 2))) := by
  by_cases h3 : byteAt F 1 = 0x03#8
  · exact .inl ⟨h3, by simp [requestFields, h3]⟩
  by_cases h4 : byteAt F 1 = 0x04#8
  · exact .inr (.inl ⟨h4, by simp [requestFields, h4]⟩)
  by_cases h6 : byteAt F 1 = 0x06#8
  · exact .inr (.inr (.inl ⟨h6, by simp [requestFields, h6]⟩))
  by_cases h10 : byteAt F 1 = 0x10#8
  · exact .inr (.inr (.inr (.inl ⟨h10, by simp [requestFields, h10]⟩)))
  · exact .inr (.inr (.inr (.inr ⟨by simp [supportedFc, h3, h4, h6, h10],
      by simp [requestFields, h3, h4, h6, h10]⟩)))

/-- The state the engine goes on from: the host's event is taken, and an answer handed over in CAP_IO. -/
inductive GoesOnFrom (s : State) : State → Prop where
  | alone (h : s.host = []) : GoesOnFrom s s
  | quiet (h : List HostEvent) (e : s.host = .quiet :: h) : GoesOnFrom s (s.withHost h)
  | answer (a : CapAnswer) (h : List HostEvent) (e : s.host = .answer a :: h) (p : s.phase = .capIO) :
      GoesOnFrom s ((s.withHost h).answered a)

/-- What runs for an operation `j` issued in `v`: itself, or under DFLD the row of the frame. -/
inductive OperationOf (v : State) (j : Instr) : Instr → State → Prop where
  | itself : OperationOf v j j v
  | row (i : Instr) (d : j = .dfld) (r : decodeResponse v.inp = .ok i) :
      OperationOf v j i { v with phase := .emit, pending := some .decode }

theorem start_is {v : State} {j : Instr} {P : Result → Prop}
    (hP : ∀ i u, OperationOf v j i u → P (exec i u)) :
    P (v.start j).outcome := by
  unfold State.start
  by_cases d : j = .dfld
  · rw [if_pos d]
    cases r : decodeResponse v.inp with
    | error e => subst d; exact hP _ _ .itself
    | ok i => exact hP _ _ (.row i d r)
  · rw [if_neg d]; exact hP _ _ .itself

/-- Everything a step is. -/
inductive StepIs (s : State) : Result → Prop where
  /-- A reset. -/
  | reset (h : List HostEvent) (e : s.host = .reset :: h) : StepIs s (.next (s.withHost h).reboot)
  /-- In IDLE the host says nothing. -/
  | waits (p : s.phase = .idle) (e : s.host = []) : StepIs s (.next s)
  /-- In IDLE the host's event starts nothing, or an answer that no call awaits. -/
  | ignores (v : HostEvent) (h : List HostEvent) (e : s.host = v :: h)
      (w : (v = .quiet ∧ s.phase = .idle) ∨ ((∃ a, v = .answer a) ∧ s.phase ≠ .capIO)) :
      StepIs s (.next (s.withHost h))
  /-- An issue is refused. -/
  | refuses (c : Command) (h : List HostEvent) (e : s.host = .issue c :: h)
      (w : s.phase ≠ .idle ∨ c.accepted s.params = false ∨ decodeOp c.op = .reservedOp c.op) :
      StepIs s (.next (s.withHost h).refuse)
  /-- PROC is issued. -/
  | entersProc (c : Command) (h : List HostEvent) (e : s.host = .issue c :: h) (p : s.phase = .idle)
      (w : c.accepted s.params = true) (o : decodeOp c.op = .proc) :
      StepIs s (.next { (s.withHost h).accept c with phase := .validate })
  /-- An operation that ends in one step is issued; DFLD runs the row of the frame where it has one. -/
  | operates (c : Command) (h : List HostEvent) (e : s.host = .issue c :: h) (p : s.phase = .idle)
      (w : c.accepted s.params = true) (o : endsOperation (decodeOp c.op) = true) (i : Instr) (u : State)
      (x : OperationOf ((s.withHost h).accept c) (decodeOp c.op) i u) : StepIs s (exec i u)
  /-- The engine is at no instruction. -/
  | stops (u : State) (g : GoesOnFrom s u) (p : s.phase ≠ .idle) (n : u.current = none) :
      StepIs s (.fault .outOfSequence)
  /-- The instruction the engine is at runs. -/
  | runs (u : State) (i : Instr) (g : GoesOnFrom s u) (p : s.phase ≠ .idle) (n : u.current = some i) :
      StepIs s (exec i u)

theorem goesOn_is {s u : State} (g : GoesOnFrom s u) (hu : u.phase = s.phase) (p : s.phase ≠ .idle) :
    StepIs s u.goOn.outcome := by
  have hp : u.phase ≠ .idle := hu ▸ p
  unfold State.goOn
  rw [if_neg hp]
  cases hc : u.current with
  | none => exact .stops u g p hc
  | some i => exact .runs u i g p hc

/-- Everything a step is, for every state. -/
theorem step_is (s : State) : StepIs s (step s) := by
  unfold step State.nextAction
  match hh : s.host with
  | [] =>
    by_cases p : s.phase = .idle
    · simp only [State.goOn, p, if_true]; exact .waits p hh
    · exact goesOn_is (.alone hh) rfl p
  | .quiet :: h =>
    by_cases p : s.phase = .idle
    · simp only [State.goOn, State.withHost_phase, p, if_true]
      exact .ignores _ h hh (.inl ⟨rfl, p⟩)
    · exact goesOn_is (.quiet h hh) rfl p
  | .answer a :: h =>
    by_cases p : s.phase = .capIO
    · simp only [State.answeredBy, State.withHost_phase, p, if_true]
      exact goesOn_is (.answer a h hh p) rfl (by simp [p])
    · simp only [State.answeredBy, State.withHost_phase, p, if_false]
      exact .ignores _ h hh (.inr ⟨⟨a, rfl⟩, p⟩)
  | .reset :: h => exact .reset h hh
  | .issue c :: h =>
    by_cases p : s.phase = .idle
    · rcases decodeOp_cases c.op with o | o | o
      · by_cases w : c.accepted s.params = true
        · have := StepIs.entersProc c h hh p w o
          simpa [State.issued, p, o, w, State.start, Action.outcome, exec, execProc] using this
        · have := StepIs.refuses c h hh (.inr (.inl (by simpa using w)))
          simpa [State.issued, Action.outcome, p, o, w] using this
      · by_cases w : c.accepted s.params = true
        · have := fun i u x => StepIs.operates c h hh p w o i u x
          have := start_is (P := StepIs s) this
          cases ho : decodeOp c.op <;> simp [ho, endsOperation] at o <;>
            simpa only [State.issued, ne_eq, State.withHost_phase, p, not_true_eq_false, if_false, ho,
              State.withHost_params, w, if_true] using this
        · have := StepIs.refuses c h hh (.inr (.inl (by simpa using w)))
          cases ho : decodeOp c.op <;> simp [ho, endsOperation] at o <;>
            simpa [State.issued, Action.outcome, p, ho, w] using this
      · have := StepIs.refuses c h hh (.inr (.inr o))
        simpa [State.issued, Action.outcome, p, o, exec, execReservedOp] using this
    · have := StepIs.refuses c h hh (.inl p)
      simpa [State.issued, Action.outcome, p] using this

/-- DISPATCH by the request's function code (42_slave_processor R179 to R186). -/
theorem dispatch_exec {u : State} {i : Instr} (p : u.phase = .dispatch) (d : decodeRequest u.inp = .ok i) :
    let F := u.inp
    let word := be16 (byteAt F 2) (byteAt F 3)
    ((byteAt F 1 = 0x03#8 ∨ byteAt F 1 = 0x04#8)
      ∧ exec i u = readDispatch (byteAt F 0) (byteAt F 1) word (be16 (byteAt F 4) (byteAt F 5)) u)
    ∨ (byteAt F 1 = 0x06#8 ∧ exec i u = writeSingleDispatch word (byteAt F 4) (byteAt F 5) u)
    ∨ (byteAt F 1 = 0x10#8
      ∧ exec i u = writeMultipleDispatch (byteAt F 0) word (byteAt F 6) (slice F 7 (7 + (byteAt F 6).toNat)) u)
    ∨ (supportedFc (byteAt F 1) = false ∧ exec i u = raiseError (byteAt F 0) (byteAt F 1) 0x01#8 u) := by
  obtain ⟨-, -, -, rfl⟩ := decodeRequest_ok d
  rcases requestFields_cases u.inp with ⟨h, e⟩ | ⟨h, e⟩ | ⟨h, e⟩ | ⟨h, e⟩ | ⟨h, e⟩ <;> rw [e]
  · exact .inl ⟨.inl h, by simp [exec, execReqReadHolding, inDispatch, p, h]⟩
  · exact .inl ⟨.inr h, by simp [exec, execReqReadInput, inDispatch, p, h]⟩
  · exact .inr (.inl ⟨h, by simp [exec, execReqWriteSingle, inDispatch, p]⟩)
  · exact .inr (.inr (.inl ⟨h, by simp [exec, execReqWriteMultiple, inDispatch, p]⟩))
  · exact .inr (.inr (.inr ⟨h, by simp [exec, execReqUnsupported, inDispatch, p]⟩))

/-- CAP_IO by the request's function code (42_slave_processor R183 to R187). -/
theorem capIO_exec {u : State} {i : Instr} (p : u.phase = .capIO) (d : decodeRequest u.inp = .ok i) :
    ((byteAt u.inp 1 = 0x03#8 ∨ byteAt u.inp 1 = 0x04#8) ∧ exec i u = readResume u)
    ∨ ((byteAt u.inp 1 = 0x06#8 ∨ byteAt u.inp 1 = 0x10#8) ∧ exec i u = writeResume u)
    ∨ (supportedFc (byteAt u.inp 1) = false ∧ exec i u = .fault .outOfSequence) := by
  obtain ⟨-, -, -, rfl⟩ := decodeRequest_ok d
  rcases requestFields_cases u.inp with ⟨h, e⟩ | ⟨h, e⟩ | ⟨h, e⟩ | ⟨h, e⟩ | ⟨h, e⟩ <;> rw [e]
  · exact .inl ⟨.inl h, by simp [exec, execReqReadHolding, inDispatch, p]⟩
  · exact .inl ⟨.inr h, by simp [exec, execReqReadInput, inDispatch, p]⟩
  · exact .inr (.inl ⟨.inl h, by simp [exec, execReqWriteSingle, inDispatch, p]⟩)
  · exact .inr (.inl ⟨.inr h, by simp [exec, execReqWriteMultiple, inDispatch, p]⟩)
  · exact .inr (.inr ⟨h, by simp [exec, execReqUnsupported, inDispatch, p]⟩)

/-- EMIT ends the operation, whatever waits there. -/
theorem emit_ends {u : State} {i : Instr} (p : u.phase = .emit) (n : u.current = some i) :
    ∃ t, exec i u = .next t ∧ Ends u t := by
  simp only [State.current, p] at n
  cases hp : u.pending with
  | none => simp [hp, emitInstr] at n
  | some o =>
    cases o with
    | respond R =>
      simp only [hp, emitInstr, Option.some.injEq] at n
      subst n
      have : exec .proc u = emitFrame R u := by simp [exec, execProc, p, procEmit, hp]
      exact ⟨_, this.trans (emitFrame_eq R u), emitFrame_ends (emitFrame_eq R u)⟩
    | error a fc code =>
      simp only [hp, emitInstr, Option.some.injEq] at n
      obtain ⟨t, ht⟩ := exec_ends_next (i := i) (by rw [← n]; rfl) u
      exact ⟨t, ht, exec_ends (by rw [← n]; rfl) ht⟩
    | suppress r =>
      simp only [hp, emitInstr, Option.some.injEq] at n
      subst n
      refine ⟨{ u.finish .noResponse with resReason := r }, by simp [exec, execProc, p, procEmit, hp], ?_⟩
      exact ⟨rfl, rfl, rfl, rfl, rfl, rfl, rfl, by constructor <;> rfl, by simp, by simp⟩
    | decode =>
      have he : endsOperation i = true := by
        simp only [hp, emitInstr] at n
        cases hd : decodeResponse u.inp with
        | error e => simp only [hd, Option.some.injEq] at n; rw [← n]; rfl
        | ok j => simp only [hd, Option.some.injEq] at n; rw [← n]; exact decodeResponse_ends hd
      obtain ⟨t, ht⟩ := exec_ends_next he u
      exact ⟨t, ht, exec_ends he ht⟩

/-- An operation that ends in one step always goes on, and ends. -/
theorem operation_ends {v : State} {j i : Instr} {u : State} (x : OperationOf v j i u)
    (o : endsOperation j = true) : ∃ t, exec i u = .next t ∧ Ends u t := by
  have he : endsOperation i = true := by
    cases x with
    | itself => exact o
    | row _ _ r => exact decodeResponse_ends r
  obtain ⟨t, ht⟩ := exec_ends_next he u
  exact ⟨t, ht, exec_ends he ht⟩

end Sys2Proof.Machine
end

