-- ==== Sys2Proof/Tests/Slice0.lean ====
section
/-! SUPPORT. Tests of one step or one word each, with the expected values of 95_test_vectors and of the section files' worked examples, and a witness for the hypotheses of every obligation that has some. -/

namespace Sys2Proof.Tests

open Machine

/-- One field of the next state. -/
def after {α : Type} (f : State → α) : Result → Option α
  | .next t => some (f t)
  | .fault _ => none
  | .refused _ => none

/-- The engine in IDLE with one operation issued. -/
def issuing (c : Command) : State := { State.reset with host := [.issue c] }

/-- PROC in DISPATCH on a request, its header latched. -/
def dispatching (dev : Byte) (total : Half) (o : ByteOrder) (F : List Byte) : State :=
  { State.reset with
    phase := .dispatch, inp := F, cfgDevAddr := dev, cfgTotal := total, cfgOrder := o
    lAddr := byteAt F 0, lFc := byteAt F 1, lBcast := byteAt F 0 == 0#8 }

/-- The read request of V2.1 and V3.1. -/
def readFrame : List Byte := [0x11#8, 0x03#8, 0x00#8, 0x6B#8, 0x00#8, 0x03#8, 0x76#8, 0x87#8]

/-- The write-single request of V2.6 and V3.13. -/
def writeFrame : List Byte := [0x01#8, 0x06#8, 0x00#8, 0x01#8, 0x34#8, 0x12#8, 0x4E#8, 0xC7#8]

/-- The broadcast write-single request of V2.7 and V3.12. -/
def broadcastFrame : List Byte := [0x00#8, 0x06#8, 0x00#8, 0x01#8, 0x34#8, 0x12#8, 0x4F#8, 0x16#8]

/-- The write-multiple request of V2.11 and V3.18. -/
def multipleFrame : List Byte :=
  [0x01#8, 0x10#8, 0x00#8, 0x01#8, 0x02#8, 0x00#8, 0x04#8, 0x0A#8, 0x00#8, 0x02#8, 0x01#8, 0xD3#8, 0x39#8]

/-- The unsupported request of V2.12 and V3.27. -/
def otherFrame : List Byte := [0x01#8, 0x99#8, 0x00#8, 0x00#8, 0xD1#8, 0xF7#8]

/-- PROC in CAP_IO with the read of V3.1 in flight. -/
def calling : State :=
  { dispatching 0x11 0xFFFF .lowHigh readFrame with
    phase := .capIO, lStart := 0x6B, lCount := 3, capReq := some (.read ⟨0⟩ 0x6B 3) }

/-- The reference store's answer to V3.1. -/
def stored : CapAnswer := ⟨[0x2B#8, 0x02#8, 0x00#8, 0x00#8, 0x64#8, 0x00#8], 0⟩

/-! Ill-formed instructions are refused by `Instr.wellFormed`, one for each check. -/

theorem test_illformed_reserved_selector : (Instr.reservedOp 0x01).wellFormed = false := by decide
theorem test_illformed_multiple_length :
    (Instr.reqWriteMultiple 1 0 1 2 [0x0A#8]).wellFormed = false := by decide
theorem test_illformed_unsupported_fc : (Instr.reqUnsupported 1 0x03 []).wellFormed = false := by decide
theorem test_illformed_read_fc : (Instr.rspRead 1 0x06 0 []).wellFormed = false := by decide
theorem test_illformed_read_length : (Instr.rspRead 1 0x03 2 [0x0A#8]).wellFormed = false := by decide
theorem test_illformed_other_error_listed : (Instr.rspErrorOther 1 0x83 2).wellFormed = false := by decide
theorem test_illformed_other_error_bit7 : (Instr.rspErrorOther 1 0x19 2).wellFormed = false := by decide
theorem test_illformed_unrecognized_bit7 : (Instr.rspUnrecognized 1 0x99).wellFormed = false := by decide
theorem test_illformed_unrecognized_supported :
    (Instr.rspUnrecognized 1 0x03).wellFormed = false := by decide
theorem test_illformed_error_frame : (Instr.errorFrameEmit 1 0x19 1).wellFormed = false := by decide

/-! Words written out from 30_encoding R110, R111 (selectors) decode to their operation. -/

theorem test_decode_crc : decode .selector [0x01#8] = .ok .crc := by decide
theorem test_decode_vreq : decode .selector [0x02#8] = .ok .vreq := by decide
theorem test_decode_vrsp : decode .selector [0x03#8] = .ok .vrsp := by decide
theorem test_decode_proc : decode .selector [0x04#8] = .ok .proc := by decide
theorem test_decode_brhr : decode .selector [0x05#8] = .ok .brhr := by decide
theorem test_decode_brir : decode .selector [0x06#8] = .ok .brir := by decide
theorem test_decode_bwsr : decode .selector [0x07#8] = .ok .bwsr := by decide
theorem test_decode_bwmr : decode .selector [0x08#8] = .ok .bwmr := by decide
theorem test_decode_drsp : decode .selector [0x09#8] = .ok .drsp := by decide
theorem test_decode_dfld : decode .selector [0x0A#8] = .ok .dfld := by decide
theorem test_decode_hex : decode .selector [0x0B#8] = .ok .hex := by decide
theorem test_decode_reserved : decode .selector [0xFF#8] = .ok (.reservedOp 0xFF) := by decide

/-! Frames written out in 95_test_vectors decode to their row, and broken ones are rejected by name. -/

theorem test_decode_read_holding : decode .request readFrame = .ok (.reqReadHolding 0x11 0x006B 3) := by
  decide +kernel
theorem test_decode_read_input :
    decode .request [0x11#8, 0x04#8, 0x00#8, 0x6B#8, 0x00#8, 0x03#8, 0xC3#8, 0x47#8]
      = .ok (.reqReadInput 0x11 0x006B 3) := by decide +kernel
theorem test_decode_write_single :
    decode .request writeFrame = .ok (.reqWriteSingle 0x01 0x0001 0x34 0x12) := by decide +kernel
theorem test_decode_write_multiple :
    decode .request multipleFrame
      = .ok (.reqWriteMultiple 0x01 0x0001 0x0002 4 [0x0A#8, 0x00#8, 0x02#8, 0x01#8]) := by decide +kernel
theorem test_decode_unsupported :
    decode .request otherFrame = .ok (.reqUnsupported 0x01 0x99 [0x00#8, 0x00#8]) := by decide +kernel
theorem test_decode_rsp_read :
    decode .response [0x01#8, 0x03#8, 0x03#8, 0xAA#8, 0xBB#8, 0xCC#8, 0x17#8, 0x0B#8]
      = .ok (.rspRead 0x01 0x03 3 [0xAA#8, 0xBB#8, 0xCC#8]) := by decide
theorem test_decode_rsp_write_single :
    decode .response writeFrame = .ok (.rspWriteSingle 0x01 0x0001 0x34 0x12) := by decide
theorem test_decode_rsp_write_multiple :
    decode .response [0x01#8, 0x10#8, 0x00#8, 0x01#8, 0x02#8, 0x00#8, 0x90#8, 0xA9#8]
      = .ok (.rspWriteMultiple 0x01 0x0001 0x0200) := by decide
theorem test_decode_error_83 :
    decode .response [0x01#8, 0x83#8, 0x08#8, 0x40#8, 0xF6#8] = .ok (.rspError83 0x01 0x08) := by decide
theorem test_decode_error_84 :
    decode .response [0x01#8, 0x84#8, 0x04#8, 0x42#8, 0xC3#8] = .ok (.rspError84 0x01 0x04) := by decide
theorem test_decode_error_86 :
    decode .response [0x01#8, 0x86#8, 0x06#8, 0xC2#8, 0x62#8] = .ok (.rspError86 0x01 0x06) := by decide
theorem test_decode_error_90 :
    decode .response [0x01#8, 0x90#8, 0x02#8, 0xCD#8, 0xC1#8] = .ok (.rspError90 0x01 0x02) := by decide
theorem test_decode_error_other :
    decode .response [0x01#8, 0x99#8, 0x01#8, 0x8B#8, 0x90#8] = .ok (.rspErrorOther 0x01 0x99 0x01) := by
  decide
theorem test_decode_unrecognized :
    decode .response [0x01#8, 0x01#8, 0x00#8, 0x00#8, 0x50#8, 0x18#8] = .ok (.rspUnrecognized 0x01 0x01) := by
  decide
theorem test_decode_error_frame :
    decode .emitted [0x01#8, 0x99#8, 0x01#8, 0x8B#8, 0x90#8] = .ok (.errorFrameEmit 0x01 0x99 0x01) := by
  decide +kernel
theorem test_reject_short : decode .request [0x11#8] = .error .tooShort := by decide
theorem test_reject_length :
    decode .request [0x01#8, 0x10#8, 0x00#8, 0x01#8, 0x00#8, 0x03#8, 0xD1#8, 0xC8#8] = .error .length := by
  decide
theorem test_reject_checksum :
    decode .request [0x11#8, 0x03#8, 0x00#8, 0x6B#8, 0x00#8, 0x03#8, 0x76#8, 0x88#8] = .error .checksum := by
  decide +kernel
theorem test_reject_malformed : decode .response [0x01#8, 0x03#8, 0x04#8, 0x01#8, 0x02#8] = .error .malformed := by
  decide

/-! The host operations, issued in IDLE: one step (vectors V1 to V7). -/

/-- V1.5. -/
theorem test_crc_check_value :
    after (·.resCrc) (step (issuing { op := 0x01
                                      frame := [0x31#8, 0x32#8, 0x33#8, 0x34#8, 0x35#8, 0x36#8, 0x37#8, 0x38#8, 0x39#8] }))
      = some 0x4B37 := by decide +kernel
/-- V2.2. -/
theorem test_vreq_bad_checksum :
    after (·.resVerdict)
      (step (issuing { op := 0x02, frame := [0x11#8, 0x03#8, 0x00#8, 0x6B#8, 0x00#8, 0x03#8, 0x76#8, 0x88#8] }))
      = some (.invalid .crc) := by decide +kernel
/-- V2.28: no checksum is examined. -/
theorem test_vrsp_ignores_checksum :
    after (·.resVerdict) (step (issuing { op := 0x03, frame := [0x01#8, 0x90#8, 0x02#8, 0x00#8, 0x00#8] }))
      = some .valid := by decide +kernel
/-- V3.1 as issued. -/
theorem test_proc_issue : after (·.phase) (step (issuing { op := 0x04, frame := readFrame })) = some .validate := by
  decide +kernel
/-- V3.5. -/
theorem test_proc_not_addressed :
    after (·.pending) (step { dispatching 0x12 0xFFFF .lowHigh readFrame with phase := .validate })
      = some (some (.suppress .notAddressed)) := by decide +kernel
/-- V4.1. -/
theorem test_brhr :
    after (·.resFrame) (step (issuing { op := 0x05, addr := 0x11, start := 0x006B, count := 3 }))
      = some readFrame := by decide +kernel
/-- V4.21. -/
theorem test_brhr_wide_address :
    after (·.resKind) (step (issuing { op := 0x05, addr := 0x100, count := 1 })) = some .refused := by
  decide +kernel
/-- V4.5. -/
theorem test_brir :
    after (·.resFrame) (step (issuing { op := 0x06, addr := 0x01, count := 0x000A }))
      = some [0x01#8, 0x04#8, 0x00#8, 0x00#8, 0x00#8, 0x0A#8, 0x70#8, 0x0D#8] := by decide +kernel
/-- V4.8. -/
theorem test_bwsr_high_low :
    after (·.resFrame)
      (step (issuing { op := 0x07, addr := 0x01, start := 0x0001, value := 0x1234, order := .highLow }))
      = some [0x01#8, 0x10#8, 0x00#8, 0x01#8, 0x12#8, 0x34#8, 0x9C#8, 0xBE#8] := by decide +kernel
/-- V4.14. -/
theorem test_bwmr :
    after (·.resFrame)
      (step (issuing { op := 0x08, addr := 0x01, start := 0x0001, count := 2, byteCount := 4
                       values := [0x000A, 0x0102] }))
      = some multipleFrame := by decide +kernel
/-- V4.20. -/
theorem test_bwmr_value_missing :
    after (·.resKind)
      (step (issuing { op := 0x08, addr := 0x01, count := 2, byteCount := 4, values := [0x0001] }))
      = some .refused := by decide +kernel
/-- V5.2. -/
theorem test_drsp_high_low :
    after (·.resRecord)
      (step (issuing { op := 0x09, order := .highLow
                       frame := [0x11#8, 0x03#8, 0x06#8, 0x2B#8, 0x02#8, 0x00#8, 0x00#8, 0x64#8, 0x00#8, 0xB9#8, 0xAE#8] }))
      = some (.decoded (.read 0x11 0x03 6 [0x2B02, 0x0000, 0x6400])) := by decide +kernel
/-- V5.15. -/
theorem test_drsp_checksum :
    after (·.resRecord) (step (issuing { op := 0x09, frame := [0x01#8, 0x90#8, 0x02#8, 0x00#8, 0x00#8] }))
      = some .checksumMismatch := by decide +kernel
/-- V5.20, which runs RSP_ERROR_OTHER. -/
theorem test_dfld_other_error :
    after (·.resRecord) (step (issuing { op := 0x0A, frame := [0x01#8, 0x99#8, 0x01#8, 0x8B#8, 0x90#8] }))
      = some (.fields (.error 0x01 0x19 .illegalFunction 0x01)) := by decide +kernel
/-- V5.23. -/
theorem test_dfld_malformed :
    after (·.resRecord) (step (issuing { op := 0x0A, frame := [0x01#8, 0x03#8, 0x04#8, 0x01#8, 0x02#8] }))
      = some (.fields .malformed) := by decide +kernel
/-- V6.1. -/
theorem test_hex :
    after (·.resText) (step (issuing { op := 0x0B, frame := [0x00#8, 0x0A#8, 0xFF#8] }))
      = some ['0', '0', ' ', '0', 'A', ' ', 'F', 'F'] := by decide +kernel
/-- V7.2. -/
theorem test_reserved_op : after (·.resKind) (step (issuing { op := 0x0C })) = some .refused := by
  decide +kernel
/-- V7.4. -/
theorem test_frame_too_long :
    after (·.resKind)
      (step { issuing { op := 0x01, frame := List.replicate 300 0x00#8 } with
              params := { Params.default with maxFrameLen := some 256 } })
      = some .refused := by decide +kernel

/-! The request rows, in DISPATCH and CAP_IO (vectors V3). -/

/-- V3.1, the call. -/
theorem test_read_holding_calls :
    after (·.capReq) (step (dispatching 0x11 0xFFFF .lowHigh readFrame))
      = some (some (.read ⟨0⟩ 0x006B 3)) := by decide +kernel
/-- V3.2, the answer under HighLow. -/
theorem test_read_holding_answers_high_low :
    after (·.pending) (step { calling with cfgOrder := .highLow, host := [.answer stored] })
      = some (some (.respond [0x11#8, 0x03#8, 0x06#8, 0x02#8, 0x2B#8, 0x00#8, 0x00#8, 0x00#8, 0x64#8])) := by
  decide +kernel
/-- Program C, step C1: 8 + 3 > 10. -/
theorem test_read_input_out_of_range :
    after (·.pending)
      (step (dispatching 0x01 10 .lowHigh [0x01#8, 0x04#8, 0x00#8, 0x08#8, 0x00#8, 0x03#8, 0x31#8, 0xC9#8]))
      = some (some (.error 0x01 0x04 0x02)) := by decide +kernel
/-- V3.13a. -/
theorem test_write_single_calls_high_low :
    after (·.capReq) (step (dispatching 0x01 10 .highLow writeFrame))
      = some (some (.write ⟨0⟩ 1 1 [0x12#8, 0x34#8])) := by decide +kernel
/-- V3.14: a broadcast is not answered, whatever the code. -/
theorem test_write_single_broadcast :
    after (·.pending)
      (step { dispatching 0x01 10 .lowHigh broadcastFrame with phase := .capIO, host := [.answer ⟨[], 6⟩] })
      = some (some (.suppress .broadcast)) := by decide +kernel
/-- V3.22: an odd byte count. -/
theorem test_write_multiple_odd :
    after (·.capReq)
      (step (dispatching 0x01 10 .highLow
        [0x01#8, 0x10#8, 0x00#8, 0x01#8, 0x01#8, 0x00#8, 0x03#8, 0xAA#8, 0xBB#8, 0xCC#8, 0xAF#8, 0xD2#8]))
      = some (some (.write ⟨0⟩ 1 1 [0xBB#8, 0xAA#8])) := by decide +kernel
/-- V3.20: 7 + 4 > 10 under BYTECOUNT. -/
theorem test_write_multiple_range :
    after (·.pending)
      (step (dispatching 0x01 10 .lowHigh
        [0x01#8, 0x10#8, 0x00#8, 0x07#8, 0x02#8, 0x00#8, 0x04#8, 0x00#8, 0x00#8, 0x00#8, 0x00#8, 0x90#8, 0x6B#8]))
      = some (some (.error 0x01 0x10 0x02)) := by decide +kernel
/-- V3.29: a broadcast is answered here. -/
theorem test_unsupported_broadcast :
    after (·.pending)
      (step (dispatching 0x01 10 .lowHigh [0x00#8, 0x99#8, 0x00#8, 0x00#8, 0xD0#8, 0x0B#8]))
      = some (some (.error 0x00 0x99 0x01)) := by decide +kernel
/-- V3.31, the frame PROC emits. -/
theorem test_error_frame_emit :
    after (·.resFrame) (step { State.reset with phase := .emit, pending := some (.error 0x01 0x05 0x01) })
      = some [0x01#8, 0x85#8, 0x01#8, 0x83#8, 0x50#8] := by decide +kernel

/-! The response rows (vectors V5). -/

/-- The engine in IDLE with a byte order. -/
def ordered (o : ByteOrder) : State := { State.reset with cfgOrder := o }

/-- V5.4: an odd last byte is ignored. -/
theorem test_rsp_read_odd :
    after (·.resRecord) (exec (.rspRead 0x01 0x03 3 [0xAA#8, 0xBB#8, 0xCC#8]) (ordered .lowHigh))
      = some (.fields (.read 0x01 0x03 3 [0xBBAA])) := by decide
/-- V5.6. -/
theorem test_rsp_write_single :
    after (·.resRecord) (exec (.rspWriteSingle 0x01 0x0001 0x34 0x12) (ordered .highLow))
      = some (.fields (.writeSingle 0x01 0x06 0x0001 0x3412)) := by decide
/-- V5.7. -/
theorem test_rsp_write_multiple :
    after (·.resRecord) (exec (.rspWriteMultiple 0x01 0x0001 0x0200) (ordered .highLow))
      = some (.fields (.writeMultiple 0x01 0x10 0x0001 512)) := by decide
/-- V5.13. -/
theorem test_rsp_error_83 :
    after (·.resRecord) (exec (.rspError83 0x01 0x07) (ordered .lowHigh))
      = some (.fields (.error 0x01 0x03 .unknownError 0x07)) := by decide
/-- V5.10. -/
theorem test_rsp_error_84 :
    after (·.resRecord) (exec (.rspError84 0x01 0x04) (ordered .lowHigh))
      = some (.fields (.error 0x01 0x04 .slaveDeviceFailure 0x04)) := by decide
/-- V5.11. -/
theorem test_rsp_error_86 :
    after (·.resRecord) (exec (.rspError86 0x01 0x06) (ordered .lowHigh))
      = some (.fields (.error 0x01 0x06 .slaveDeviceBusy 0x06)) := by decide
/-- V5.9. -/
theorem test_rsp_error_90 :
    after (·.resRecord) (exec (.rspError90 0x01 0x02) (ordered .lowHigh))
      = some (.fields (.error 0x01 0x10 .illegalDataAddress 0x02)) := by decide
/-- V5.20. -/
theorem test_rsp_error_other :
    after (·.resRecord) (exec (.rspErrorOther 0x01 0x99 0x01) (ordered .lowHigh))
      = some (.fields (.error 0x01 0x19 .illegalFunction 0x01)) := by decide
/-- V5.21. -/
theorem test_rsp_unrecognized :
    after (·.resRecord) (exec (.rspUnrecognized 0x01 0x01) (ordered .lowHigh))
      = some (.fields (.unrecognized 0x01 0x01)) := by decide

/-! Table words (log 17): the decoder's reading and the placement agree. -/

theorem test_table_word_selector :
    decodeTableWord 8 0x04 = some .proc
      ∧ after (·.phase) (step (State.reset.withFetchWord 8 0x04)) = some .validate := by decide +kernel
theorem test_table_word_request :
    decodeTableWord 16 0x03 = some (.reqReadHolding 0 0 0)
      ∧ after (·.phase) (step (State.reset.withFetchWord 16 0x03)) = some .emit := by decide +kernel
theorem test_table_word_response :
    decodeTableWord 8 0x83 = some (.rspError83 0 0)
      ∧ after (·.resRecord) (step (State.reset.withFetchWord 8 0x83))
        = some (.fields (.error 0 0x03 .unknownError 0)) := by decide +kernel

/-! Witnesses: for every obligation with hypotheses, states and operands that meet them, each clause at a
boundary of its range. -/

theorem witness_DecodeOfEncodeIsTheInstruction :
    (Instr.reservedOp 0x0C).wellFormed = true ∧ (Instr.reqWriteMultiple 1 0 1 2 [0x0A#8, 0x00#8]).wellFormed = true
      ∧ (Instr.reqUnsupported 1 0x83 []).wellFormed = true ∧ (Instr.rspRead 1 0x04 0 []).wellFormed = true
      ∧ (Instr.rspErrorOther 1 0x80 2).wellFormed = true ∧ (Instr.rspUnrecognized 1 0x7F).wellFormed = true
      ∧ (Instr.errorFrameEmit 1 0x80 1).wellFormed = true := by decide

theorem witness_RequestDecodeIsExact : ∃ F i, decode .request F = .ok i := ⟨_, _, test_decode_write_multiple⟩

theorem witness_ResponseRowRunsAsDfld : ∃ (s : State) (i : Instr), decode .response s.inp = .ok i :=
  ⟨{ State.reset with inp := writeFrame }, _, test_decode_rsp_write_single⟩

/-- V2.1, V2.3, V2.17 (length 4), V2.15 (length 3), V2.14. -/
theorem witness_RequestClasses :
    validateRequest readFrame = .valid ∧ validateRequest [] = .invalid .tooShort
      ∧ (let F := [0x01#8, 0x05#8, 0xC0#8, 0x23#8]
        validateRequest F = .invalid .unsupportedFc ∧ F.length = 4 ∧ crcOk F = true)
      ∧ (let F := [0x01#8, 0x05#8, 0x00#8]
        validateRequest F = .invalid .unsupportedFc ∧ F.length = 3)
      ∧ (let F := [0x01#8, 0x99#8, 0x00#8, 0x00#8, 0x00#8, 0x00#8]
        validateRequest F = .invalid .unsupportedFc ∧ 4 ≤ F.length ∧ crcOk F = false) := by decide +kernel

theorem witness_ProcEntersValidate : State.reset.phase = .idle := rfl

/-- V3.7; V3.30; V3.1 and V3.4. -/
theorem witness_ProcValidatesAndFilters :
    (∃ r, classifyRequest .illegalFunction [0x11#8] = .invalid r)
      ∧ (classifyRequest .illegalFunction otherFrame = .unsupported ∧ byteAt otherFrame 0 ≠ 0#8
        ∧ byteAt otherFrame 0 ≠ 0x02#8)
      ∧ (classifyRequest .illegalFunction readFrame = .valid ∧ byteAt readFrame 0 = 0x11#8)
      ∧ (classifyRequest .illegalFunction broadcastFrame = .valid ∧ byteAt broadcastFrame 0 = 0#8)
      ∧ ({ State.reset with phase := .validate, inp := readFrame } : State).phase = .validate := by
  refine ⟨⟨.tooShort, by decide⟩, ?_⟩
  decide +kernel

/-- An outcome waiting in EMIT. -/
def emitting (p : Pending) : State := { State.reset with phase := .emit, pending := some p }

theorem witness_ProcEmitsOrSuppresses :
    (emitting (.respond [])).phase = .emit ∧ (emitting (.respond [])).pending = some (.respond [])
      ∧ (emitting (.suppress .broadcast)).phase = .emit
      ∧ (emitting (.suppress .broadcast)).pending = some (.suppress .broadcast) := ⟨rfl, rfl, rfl, rfl⟩

/-- For UnsupportedIsAnsweredIllegalFunction and WriteSingleCalls. -/
theorem witness_in_dispatch : (dispatching 0x11 0xFFFF .lowHigh readFrame).phase = .dispatch := rfl

/-- V3.11c and V3.11b, at the two sides of the range; V3.4. -/
theorem witness_ReadRequestsCheckAndCall :
    let s := dispatching 0x11 10 .lowHigh readFrame
    s.phase = .dispatch ∧ s.cfgTotal.toNat < (9 : Half).toNat + (2 : Half).toNat
      ∧ (8 : Half).toNat + (2 : Half).toNat ≤ s.cfgTotal.toNat ∧ (0x11#8 : Byte) ≠ 0#8 := by decide

/-- V3.1 and V3.11d. -/
theorem witness_ReadRequestsAnswer :
    let s : State := { calling with capAns := some stored }
    let u : State := { calling with capAns := some ⟨[], 255⟩ }
    s.phase = .capIO ∧ s.capAns = some stored ∧ stored.code = 0
      ∧ stored.bytes.length = 2 * s.lCount.toNat
      ∧ u.phase = .capIO ∧ u.capAns = some ⟨[], 255⟩ ∧ (255 : Nat) < 256 := by decide

/-- V3.20 (7 + 4 > 10), and 6 + 4 = 10. -/
theorem witness_WriteMultipleChecksAndCalls :
    let s := dispatching 0x01 10 .lowHigh multipleFrame
    s.phase = .dispatch ∧ s.cfgTotal.toNat < (7 : Half).toNat + (4 : Byte).toNat
      ∧ (6 : Half).toNat + (4 : Byte).toNat ≤ s.cfgTotal.toNat := by decide

/-- V3.12 to V3.15. -/
theorem witness_WriteRequestsAnswer :
    let s : State := { dispatching 0x01 10 .lowHigh writeFrame with phase := .capIO, capAns := some ⟨[], 0⟩ }
    let u : State := { s with capAns := some ⟨[], 6⟩ }
    let b : State := { dispatching 0x01 10 .lowHigh broadcastFrame with phase := .capIO, capAns := some ⟨[], 6⟩ }
    s.phase = .capIO ∧ s.capAns = some ⟨[], 0⟩ ∧ s.lBcast = false ∧ u.capAns = some ⟨[], 6⟩
      ∧ b.phase = .capIO ∧ b.lBcast = true ∧ (6 : Nat) ≠ 0 ∧ (6 : Nat) < 256 := by decide

theorem witness_BrokenContractFaults :
    let s : State := { calling with capAns := some ⟨[], 256⟩ }
    let u : State := { calling with capAns := some ⟨[0x00#8], 0⟩ }
    s.phase = .capIO ∧ s.capAns = some ⟨[], 256⟩ ∧ u.phase = .capIO ∧ u.capAns = some ⟨[0x00#8], 0⟩
      ∧ (1 : Nat) ≠ 2 * u.lCount.toNat := by decide

/-- A state of a run that meets the invariant: the call of V3.1 is in flight. -/
theorem witness_calling_inv (h : List HostEvent) : ({ calling with host := h } : State).Inv where
  call_in_capIO := by simp [calling]
  no_answer_left := rfl
  pending_in_emit := by simp [calling, dispatching, State.reset]
  no_decode_left := by simp [calling, dispatching, State.reset]
  no_result_in_flight := fun _ => .inl rfl
  request_latched := fun _ => ⟨⟨_, test_decode_read_holding⟩, rfl, rfl, rfl⟩
  fields_latched := fun _ => by
    constructor <;> simp [calling, dispatching, State.reset, readFrame, byteAt, be16]
  call_of_request := by
    intro r hr
    obtain rfl : CapReq.read ⟨0⟩ 0x6B 3 = r := by simpa [calling] using hr
    exact ⟨rfl, rfl, rfl, .inl rfl, rfl, (by decide : 107 + 3 ≤ 65535)⟩
  frame_sealed := by simp [calling, dispatching, State.reset]

theorem witness_BlockedCallWaits :
    let s : State := { calling with host := List.replicate 2 .quiet ++ [.answer stored] }
    let u : State := { calling with host := [] }
    s.Inv ∧ s.phase = .capIO ∧ s.host = List.replicate 2 .quiet ++ [.answer stored]
      ∧ u.Inv ∧ u.phase = .capIO ∧ u.host = [] :=
  ⟨witness_calling_inv _, rfl, rfl, witness_calling_inv _, rfl, rfl⟩

/-- V4.14; V4.19; V4.20; byte counts 0 and 254 at the edges. For BuiltFramesValidate and
BuiltWriteMultipleDecodes too. -/
theorem witness_WriteMultipleBuilderBuilds :
    bwmrPrecondition 4 [0x000A, 0x0102] = true ∧ bwmrPrecondition 3 [0x0001] = false
      ∧ bwmrPrecondition 4 [0x0001] = false ∧ bwmrPrecondition 0 [] = true
      ∧ bwmrPrecondition 254 (List.replicate 127 0) = true := by decide +kernel

/-- V5.17; V5.15; V5.5. -/
theorem witness_ResponseIsValidatedThenDecoded :
    validateResponse [0x01#8, 0x03#8, 0x00#8, 0x00#8] = .invalid .length
      ∧ (validateResponse [0x01#8, 0x90#8, 0x02#8, 0x00#8, 0x00#8] = .valid
        ∧ crcOk [0x01#8, 0x90#8, 0x02#8, 0x00#8, 0x00#8] = false)
      ∧ (validateResponse writeFrame = .valid ∧ crcOk writeFrame = true) := by decide +kernel

/-- V5.27, V5.23, V5.22 (a frame that ends with its data), V5.24, V5.25, V5.26, and their shortest
well-formed neighbours. -/
theorem witness_FieldsAreDecoded :
    [0x01#8].length < 2 ∧ [0x01#8, 0x03#8].length < 3
      ∧ [0x01#8, 0x03#8, 0x04#8, 0x01#8, 0x02#8].length < 3 + (0x04#8).toNat
      ∧ 3 + (0x02#8).toNat ≤ [0x11#8, 0x03#8, 0x02#8, 0x2B#8, 0x02#8].length
      ∧ [0x01#8, 0x06#8, 0x00#8, 0x01#8, 0x34#8].length < 6
      ∧ 6 ≤ [0x01#8, 0x06#8, 0x00#8, 0x01#8, 0x34#8, 0x12#8].length
      ∧ [0x01#8, 0x10#8, 0x00#8, 0x01#8, 0x02#8].length < 6
      ∧ 6 ≤ [0x01#8, 0x10#8, 0x00#8, 0x01#8, 0x02#8, 0x00#8].length
      ∧ 0x80 ≤ (0x80#8).toNat ∧ [0x01#8, 0x83#8].length < 3 ∧ 3 ≤ [0x01#8, 0x80#8, 0x02#8].length
      ∧ (0x7F#8).toNat < 0x80 := by decide

theorem witness_HexText : 2 < [0x00#8, 0x0A#8, 0xFF#8].length := by decide

/-- PROC of V3.1 as issued, with a host event behind it. -/
def procCommand : Command := { op := 0x04, frame := readFrame, devAddr := 0x11 }

theorem witness_ResetAbandonsTheOperation :
    ({ calling with host := [.reset] } : State).host = .reset :: [] := rfl

/-- V7.1 and V7.2. -/
theorem witness_ReservedSelectorIsRefused :
    (issuing { op := 0x0C }).phase = .idle ∧ (issuing { op := 0x0C }).host = .issue { op := 0x0C } :: []
      ∧ 0x0C ≤ (0x0C#8).toNat ∧ ({ op := 0x00 } : Command).op = 0x00#8 := by decide

theorem witness_BusyIssueIsRefused :
    let s : State := { calling with host := [.issue procCommand] }
    s.phase ≠ .idle ∧ s.host = .issue procCommand :: [] := by decide

/-- Every operand just beyond its width (V4.21, V4.22), and a frame one byte too long. -/
theorem witness_UnfitOperandIsRefused :
    (issuing { op := 0x05, addr := 256 }).phase = .idle
      ∧ 256 ≤ ({ op := 0x05, addr := 256 } : Command).addr
      ∧ 65536 ≤ ({ op := 0x06, count := 65536 } : Command).count
      ∧ 65536 ≤ ({ op := 0x07, value := 65536 } : Command).value
      ∧ 256 ≤ ({ op := 0x08, byteCount := 256 } : Command).byteCount
      ∧ (∃ v ∈ ({ op := 0x08, values := [65536] } : Command).values, 65536 ≤ v)
      ∧ ∃ m, ({ Params.default with maxFrameLen := some 2 } : Params).maxFrameLen = some m
        ∧ m < ({ op := 0x01, frame := [0x00#8, 0x00#8, 0x00#8] } : Command).frame.length := by
  exact ⟨rfl, by decide, by decide, by decide, by decide, ⟨65536, by decide, by decide⟩, 2, rfl, by decide⟩

/-- Operands at the top of their widths are accepted, and a frame as long as P_MAX_FRAME_LEN. -/
theorem witness_IssueLatchesOperands :
    Command.accepted Params.default { op := 0x05, addr := 255, start := 65535, count := 65535 } = true
      ∧ Command.accepted Params.default { op := 0x07, addr := 255, start := 65535, value := 65535 } = true
      ∧ Command.accepted Params.default
          { op := 0x08, addr := 255, start := 65535, count := 65535, byteCount := 255, values := [65535] } = true
      ∧ Command.accepted { Params.default with maxFrameLen := some 8 } procCommand = true := by decide

theorem witness_StepRunsTheIssuedOperation :
    (issuing procCommand).phase = .idle ∧ (issuing procCommand).host = .issue procCommand :: []
      ∧ procCommand.accepted (issuing procCommand).params = true
      ∧ ¬ (procCommand.op = 0x00#8 ∨ 0x0C ≤ procCommand.op.toNat) := by decide

/-- One state for each phase and each outcome, and each event of the host. -/
theorem witness_StepRunsTheDecodedInstruction :
    (let s : State := { State.reset with phase := .validate };
      s.phase = .validate ∧ s.host = [])
      ∧ (let s := dispatching 0x11 0xFFFF .lowHigh readFrame;
        s.phase = .dispatch ∧ decode .request s.inp = .ok (.reqReadHolding 0x11 0x006B 3))
      ∧ (let s : State := { calling with host := [.answer stored] };
        s.phase = .capIO ∧ decode .request s.inp = .ok (.reqReadHolding 0x11 0x006B 3)
          ∧ s.host = .answer stored :: [])
      ∧ (let s := emitting (.error 0x01 0x99 0x01);
        s.phase = .emit ∧ s.pending = some (.error 0x01 0x99 0x01))
      ∧ (let s : State := { emitting .decode with inp := writeFrame, host := [.quiet] };
        s.phase = .emit ∧ s.pending = some .decode
          ∧ decode .response s.inp = .ok (.rspWriteSingle 0x01 0x0001 0x34 0x12) ∧ s.host = .quiet :: []) :=
  ⟨⟨rfl, rfl⟩, ⟨rfl, test_decode_read_holding⟩, ⟨rfl, test_decode_read_holding, rfl⟩, ⟨rfl, rfl⟩,
    ⟨rfl, rfl, test_decode_rsp_write_single, rfl⟩⟩

theorem witness_IdleWaitsForTheHost :
    State.reset.phase = .idle ∧ State.reset.host = []
      ∧ ({ State.reset with host := [.quiet] } : State).host = .quiet :: []
      ∧ ({ State.reset with host := [.answer stored] } : State).host = .answer stored :: [] := by decide

/-- From a state that meets the invariant a step goes on, into EMIT. -/
theorem witness_StepKeepsTheInvariant :
    let s : State := { calling with host := [.answer stored] }
    s.Inv ∧ after (·.phase) (step s) = some .emit :=
  ⟨witness_calling_inv _, by decide +kernel⟩

/-- A code one beyond 8 bits, and a success with one byte too few. -/
theorem witness_OnlyABrokenContractStops :
    let s : State := { calling with host := [.answer ⟨[], 256⟩] }
    let short : CapAnswer := ⟨List.replicate 5 0x00#8, 0⟩
    let u : State := { calling with host := [.answer short] }
    s.Inv ∧ s.phase = .capIO ∧ s.host = .answer ⟨[], 256⟩ :: [] ∧ BreaksContract s ⟨[], 256⟩
      ∧ u.Inv ∧ u.phase = .capIO ∧ u.host = .answer short :: [] ∧ BreaksContract u short :=
  ⟨witness_calling_inv _, rfl, rfl, .inl (by decide), witness_calling_inv _, rfl, rfl,
    .inr ⟨rfl, ⟨0⟩, 0x6B, 3, rfl, by decide⟩⟩

theorem witness_ProcessAnswersAsTheRuleSays :
    let s : State := { State.reset with host := [.issue procCommand, .quiet, .quiet, .answer stored, .quiet] ++ [] }
    s.phase = .idle ∧ procCommand.op = 0x04#8 ∧ procCommand.accepted s.params = true
      ∧ s.host = [.issue procCommand, .quiet, .quiet, .answer stored, .quiet] ++ []
      ∧ planOf s.params readFrame 0x11 0xFFFF .lowHigh = .read 0x006B 3
      ∧ keepsContract stored (.read 0x006B 3) := by
  refine ⟨rfl, rfl, by decide, rfl, by decide +kernel, by simp [keepsContract, stored]⟩

theorem witness_ProcessCallsAsTheRuleSays :
    let s : State := { State.reset with host := [.issue procCommand, .quiet, .quiet] ++ [] }
    s.phase = .idle ∧ procCommand.op = 0x04#8 ∧ procCommand.accepted s.params = true
      ∧ s.host = [.issue procCommand, .quiet, .quiet] ++ [] := ⟨rfl, rfl, by decide, rfl⟩

theorem witness_CallsComeFromRequestRows :
    let s := dispatching 0x11 0xFFFF .lowHigh readFrame
    s.capReq = none ∧ after (·.capReq) (step s) = some (some (.read ⟨0⟩ 0x006B 3)) :=
  ⟨rfl, test_read_holding_calls⟩

/-- A step that is no reset and no issue, for PhasesFollowInOrder, ParametersNeverChange and
OperandsAreStable. -/
theorem witness_a_quiet_step :
    let s : State := { State.reset with host := [.quiet] }
    (∃ t, step s = .next t) ∧ (∀ h, s.host ≠ .reset :: h) ∧ (∀ c h, s.host = .issue c :: h → s.phase ≠ .idle) :=
  ⟨⟨_, rfl⟩, by simp, by simp⟩

theorem witness_OneStepOperationsAreStateless :
    let c : Command := { op := 0x0B, frame := [0xAB#8] }
    let s := issuing c
    let u : State := { issuing c with resKind := .text, resText := ['x'], acc := 5, draws := 7 }
    s.phase = .idle ∧ u.phase = .idle ∧ s.params = u.params ∧ s.host = .issue c :: [] ∧ u.host = .issue c :: []
      ∧ decodeOp c.op ≠ .proc ∧ s ≠ u :=
  ⟨rfl, rfl, rfl, rfl, rfl, by decide, fun e => absurd (congrArg State.draws e) (by decide)⟩

/-- V3.2: three pairs, swapped to the last (k at half the length), and k below it with a byte left over. -/
theorem witness_SwapPairsExchangesEachPair :
    2 * 3 ≤ stored.bytes.length ∧ 2 * 1 ≤ [0xAA#8, 0xBB#8, 0xCC#8].length
      ∧ swapPairs 3 stored.bytes = [0x02#8, 0x2B#8, 0x00#8, 0x00#8, 0x00#8, 0x64#8]
      ∧ swapPairs 1 [0xAA#8, 0xBB#8, 0xCC#8] = [0xBB#8, 0xAA#8, 0xCC#8] := by decide

end Sys2Proof.Tests
end

/-! PROOFS. The frame validator (41_validator): what brings each verdict and each class about.
The verdicts of a request (R140), of a response (R150), then the classes of a request (R141). -/

namespace Sys2Proof.Machine

/-- Byte 1 is the function code of a request (30_encoding R81). -/
def KnownRequestFc (F : List Byte) : Prop :=
  byteAt F 1 = 0x03#8 ∨ byteAt F 1 = 0x04#8 ∨ byteAt F 1 = 0x06#8 ∨ byteAt F 1 = 0x10#8

/-- The length of a request fits its byte 1 (41_validator R140). -/
def RequestShaped (F : List Byte) : Prop :=
  ((byteAt F 1 = 0x03#8 ∨ byteAt F 1 = 0x04#8 ∨ byteAt F 1 = 0x06#8) ∧ F.length = 8)
  ∨ (byteAt F 1 = 0x10#8 ∧ 9 ≤ F.length ∧ F.length = 9 + (byteAt F 6).toNat)

theorem RequestShaped.known {F : List Byte} (h : RequestShaped F) : KnownRequestFc F := by
  rcases h with ⟨h | h | h, -⟩ | ⟨h, -⟩ <;> simp [KnownRequestFc, h]

theorem requestLengthFault_of_short {F : List Byte} (h : F.length < 2) :
    requestLengthFault F = some .tooShort := by
  simp [requestLengthFault, h]

theorem requestLengthFault_of_unknown {F : List Byte} (h2 : 2 ≤ F.length) (h : ¬ KnownRequestFc F) :
    requestLengthFault F = some .unsupportedFc := by
  simp only [KnownRequestFc, not_or] at h
  simp [requestLengthFault, Nat.not_lt.mpr h2, h]

theorem requestLengthFault_of_shaped {F : List Byte} (h : RequestShaped F) :
    requestLengthFault F = none := by
  rcases h with ⟨h, hl⟩ | ⟨h, h9, hl⟩
  · rcases h with h | h | h <;> simp [requestLengthFault, h, hl]
  · have h2 : ¬ F.length < 2 := by omega
    simp [requestLengthFault, h, ← hl, h2, Nat.not_lt.mpr h9]

theorem requestLengthFault_of_misshapen {F : List Byte} (h2 : 2 ≤ F.length) (h : KnownRequestFc F)
    (hs : ¬ RequestShaped F) : requestLengthFault F = some .length := by
  rcases h with h | h | h | h <;>
    simpa [requestLengthFault, RequestShaped, h, Nat.not_lt.mpr h2] using hs

theorem validateRequest_of_fault {F : List Byte} {r : Reason} (h : requestLengthFault F = some r) :
    validateRequest F = .invalid r := by
  simp [validateRequest, h]

theorem validateRequest_of_shaped {F : List Byte} (h : RequestShaped F) :
    validateRequest F = if crcOk F then .valid else .invalid .crc := by
  simp [validateRequest, requestLengthFault_of_shaped h]

/-- The verdicts of R140, each with what brings it about, in the order of the checks. -/
theorem validateRequest_cases (F : List Byte) :
    (F.length < 2 ∧ validateRequest F = .invalid .tooShort)
    ∨ (2 ≤ F.length ∧ ¬ KnownRequestFc F ∧ validateRequest F = .invalid .unsupportedFc)
    ∨ (2 ≤ F.length ∧ KnownRequestFc F ∧ ¬ RequestShaped F ∧ validateRequest F = .invalid .length)
    ∨ (2 ≤ F.length ∧ RequestShaped F ∧ crcOk F = false ∧ validateRequest F = .invalid .crc)
    ∨ (2 ≤ F.length ∧ RequestShaped F ∧ crcOk F = true ∧ validateRequest F = .valid) := by
  rcases Nat.lt_or_ge F.length 2 with h2 | h2
  · exact .inl ⟨h2, validateRequest_of_fault (requestLengthFault_of_short h2)⟩
  by_cases hk : KnownRequestFc F
  swap
  · exact .inr (.inl ⟨h2, hk, validateRequest_of_fault (requestLengthFault_of_unknown h2 hk)⟩)
  by_cases hs : RequestShaped F
  swap
  · exact .inr (.inr (.inl ⟨h2, hk, hs,
      validateRequest_of_fault (requestLengthFault_of_misshapen h2 hk hs)⟩))
  cases hc : crcOk F with
  | false => exact .inr (.inr (.inr (.inl ⟨h2, hs, rfl, by simp [validateRequest_of_shaped hs, hc]⟩)))
  | true => exact .inr (.inr (.inr (.inr ⟨h2, hs, rfl, by simp [validateRequest_of_shaped hs, hc]⟩)))

/-- The causes of `validateRequest_cases` exclude one another, so each verdict is equivalent to its own. -/
theorem validateRequest_iff (F : List Byte) :
    (validateRequest F = .invalid .tooShort ↔ F.length < 2)
    ∧ (validateRequest F = .invalid .unsupportedFc ↔ 2 ≤ F.length ∧ ¬ KnownRequestFc F)
    ∧ (validateRequest F = .invalid .length ↔ 2 ≤ F.length ∧ KnownRequestFc F ∧ ¬ RequestShaped F)
    ∧ (validateRequest F = .invalid .crc ↔ 2 ≤ F.length ∧ RequestShaped F ∧ crcOk F = false)
    ∧ (validateRequest F = .valid ↔ 2 ≤ F.length ∧ RequestShaped F ∧ crcOk F = true) := by
  rcases validateRequest_cases F with ⟨h2, hv⟩ | ⟨h2, hk, hv⟩ | ⟨h2, hk, hs, hv⟩ | ⟨h2, hs, hc, hv⟩
    | ⟨h2, hs, hc, hv⟩
  · simp [hv, h2, Nat.not_le.mpr h2]
  · simp [hv, h2, hk, Nat.not_lt.mpr h2, mt RequestShaped.known hk]
  · simp [hv, h2, hk, hs, Nat.not_lt.mpr h2]
  · simp [hv, h2, hs, hs.known, hc, Nat.not_lt.mpr h2]
  · simp [hv, h2, hs, hs.known, hc, Nat.not_lt.mpr h2]

theorem exec_vreq (s : State) :
    exec .vreq s = .next { s with
      resVerdict := validateRequest s.inp
      acc := accAfterCheck (validateRequest s.inp).ranChecksum s.inp s.acc
      resKind := .verdict, phase := .idle, pending := none } := rfl

/-- Settles O9: `exec_vreq` for the operation and `validateRequest_iff` for the verdicts. -/
theorem requestVerdicts : Obligations.RequestVerdicts :=
  ⟨fun s => ⟨_, exec_vreq s⟩, validateRequest_iff⟩

/-- Byte 1 is a function code that the response check accepts (41_validator R150). -/
def KnownResponseFc (F : List Byte) : Prop :=
  byteAt F 1 = 0x03#8 ∨ byteAt F 1 = 0x04#8 ∨ byteAt F 1 = 0x06#8 ∨ byteAt F 1 = 0x10#8
  ∨ byteAt F 1 = 0x83#8 ∨ byteAt F 1 = 0x84#8 ∨ byteAt F 1 = 0x86#8 ∨ byteAt F 1 = 0x90#8

/-- The length of a response fits its byte 1, and byte 2 where that counts bytes (41_validator R150). -/
def ResponseShaped (F : List Byte) : Prop :=
  ((byteAt F 1 = 0x03#8 ∨ byteAt F 1 = 0x04#8) ∧ 3 ≤ F.length ∧ F.length = 5 + (byteAt F 2).toNat)
  ∨ ((byteAt F 1 = 0x06#8 ∨ byteAt F 1 = 0x10#8) ∧ F.length = 8)
  ∨ ((byteAt F 1 = 0x83#8 ∨ byteAt F 1 = 0x84#8 ∨ byteAt F 1 = 0x86#8 ∨ byteAt F 1 = 0x90#8)
    ∧ F.length = 5)

theorem ResponseShaped.known {F : List Byte} (h : ResponseShaped F) : KnownResponseFc F := by
  rcases h with ⟨h | h, -⟩ | ⟨h | h, -⟩ | ⟨h | h | h | h, -⟩ <;> simp [KnownResponseFc, h]

theorem validateResponse_of_short {F : List Byte} (h : F.length < 2) :
    validateResponse F = .invalid .tooShort := by
  simp [validateResponse, h]

theorem validateResponse_of_unknown {F : List Byte} (h2 : 2 ≤ F.length) (h : ¬ KnownResponseFc F) :
    validateResponse F = .invalid .unsupportedFc := by
  simp only [KnownResponseFc, not_or] at h
  simp [validateResponse, errorFc, Nat.not_lt.mpr h2, h]

theorem validateResponse_of_shaped {F : List Byte} (h : ResponseShaped F) :
    validateResponse F = .valid := by
  rcases h with ⟨h, h3, hl⟩ | ⟨h, hl⟩ | ⟨h, hl⟩
  · have h2 : ¬ F.length < 2 := by omega
    rcases h with h | h <;> simp [validateResponse, h, ← hl, h2, Nat.not_lt.mpr h3]
  · rcases h with h | h <;> simp [validateResponse, h, hl]
  · rcases h with h | h | h | h <;> simp [validateResponse, errorFc, h, hl]

theorem validateResponse_of_misshapen {F : List Byte} (h2 : 2 ≤ F.length) (h : KnownResponseFc F)
    (hs : ¬ ResponseShaped F) : validateResponse F = .invalid .length := by
  rcases h with h | h | h | h | h | h | h | h <;>
    simpa [validateResponse, ResponseShaped, errorFc, h, Nat.not_lt.mpr h2] using hs

/-- The verdicts of R150, each with what brings it about, in the order of the checks. -/
theorem validateResponse_cases (F : List Byte) :
    (F.length < 2 ∧ validateResponse F = .invalid .tooShort)
    ∨ (2 ≤ F.length ∧ ¬ KnownResponseFc F ∧ validateResponse F = .invalid .unsupportedFc)
    ∨ (2 ≤ F.length ∧ KnownResponseFc F ∧ ¬ ResponseShaped F ∧ validateResponse F = .invalid .length)
    ∨ (2 ≤ F.length ∧ ResponseShaped F ∧ validateResponse F = .valid) := by
  rcases Nat.lt_or_ge F.length 2 with h2 | h2
  · exact .inl ⟨h2, validateResponse_of_short h2⟩
  by_cases hk : KnownResponseFc F
  swap
  · exact .inr (.inl ⟨h2, hk, validateResponse_of_unknown h2 hk⟩)
  by_cases hs : ResponseShaped F
  · exact .inr (.inr (.inr ⟨h2, hs, validateResponse_of_shaped hs⟩))
  · exact .inr (.inr (.inl ⟨h2, hk, hs, validateResponse_of_misshapen h2 hk hs⟩))

/-- The causes of `validateResponse_cases` exclude one another, and none of them is a checksum. -/
theorem validateResponse_iff (F : List Byte) :
    (validateResponse F = .invalid .tooShort ↔ F.length < 2)
    ∧ (validateResponse F = .invalid .unsupportedFc ↔ 2 ≤ F.length ∧ ¬ KnownResponseFc F)
    ∧ (validateResponse F = .invalid .length ↔ 2 ≤ F.length ∧ KnownResponseFc F ∧ ¬ ResponseShaped F)
    ∧ (validateResponse F = .valid ↔ 2 ≤ F.length ∧ ResponseShaped F)
    ∧ validateResponse F ≠ .invalid .crc := by
  rcases validateResponse_cases F with ⟨h2, hv⟩ | ⟨h2, hk, hv⟩ | ⟨h2, hk, hs, hv⟩ | ⟨h2, hs, hv⟩
  · simp [hv, h2, Nat.not_le.mpr h2]
  · simp [hv, h2, hk, Nat.not_lt.mpr h2, mt ResponseShaped.known hk]
  · simp [hv, h2, hk, hs, Nat.not_lt.mpr h2]
  · simp [hv, h2, hs, hs.known, Nat.not_lt.mpr h2]

theorem exec_vrsp (s : State) :
    exec .vrsp s = .next { s with
      resVerdict := validateResponse s.inp, resKind := .verdict, phase := .idle, pending := none } := rfl

/-- Settles O10: `exec_vrsp` for the operation and `validateResponse_iff` for the verdicts. -/
theorem responseVerdicts : Obligations.ResponseVerdicts := ⟨exec_vrsp, validateResponse_iff⟩

theorem classifyRequest_of_valid {F : List Byte} (p : UnsupportedFcPolicy) (h : validateRequest F = .valid) :
    classifyRequest p F = .valid := by
  simp [classifyRequest, h]

theorem classifyRequest_of_invalid {F : List Byte} {r : Reason} (p : UnsupportedFcPolicy)
    (hr : r ≠ .unsupportedFc) (h : validateRequest F = .invalid r) :
    classifyRequest p F = .invalid r := by
  cases r with
  | unsupportedFc => exact absurd rfl hr
  | tooShort => simp [classifyRequest, h]
  | length => simp [classifyRequest, h]
  | crc => simp [classifyRequest, h]

theorem classifyRequest_drop {F : List Byte} (h : validateRequest F = .invalid .unsupportedFc) :
    classifyRequest .drop F = .invalid .unsupportedFc := by
  simp [classifyRequest, h]

theorem classifyRequest_illegalFunction {F : List Byte} (h : validateRequest F = .invalid .unsupportedFc) :
    classifyRequest .illegalFunction F
      = if F.length < 4 then .invalid .length else if crcOk F then .unsupported else .invalid .crc := by
  simp [classifyRequest, h]

/-- Settles O11: only an unsupported function code leaves a choice to the policy. -/
theorem requestClasses : Obligations.RequestClasses := by
  intro p F
  refine ⟨classifyRequest_of_valid p, fun _ => classifyRequest_of_invalid p, fun hv => ?_⟩
  refine ⟨?drop, ?short, ?crc, ?unsupported⟩
  case drop => rintro rfl; exact classifyRequest_drop hv
  case short => rintro rfl hl; simp [classifyRequest_illegalFunction hv, hl]
  case crc => rintro rfl hl hc; simp [classifyRequest_illegalFunction hv, Nat.not_lt.mpr hl, hc]
  case unsupported => rintro rfl hl hc; simp [classifyRequest_illegalFunction hv, Nat.not_lt.mpr hl, hc]

end Sys2Proof.Machine

/-! PROOFS. The slave's request rows (42_slave_processor): a write-single in DISPATCH (R182, R184). -/

namespace Sys2Proof.Machine

theorem inDispatch_of_dispatch (start resume : State → Result) {s : State} (p : s.phase = .dispatch) :
    inDispatch start resume s = start s := by
  simp [inDispatch, p]

theorem exec_reqWriteSingle_of_dispatch (addr : Byte) (reg : Half) (v0 v1 : Byte) {s : State}
    (p : s.phase = .dispatch) :
    exec (.reqWriteSingle addr reg v0 v1) s = writeSingleDispatch reg v0 v1 s :=
  inDispatch_of_dispatch (writeSingleDispatch reg v0 v1) writeResume p

/-- The call carries one register at `reg`; no premise mentions CFG_TOTAL (R182). -/
theorem writeSingleDispatch_calls (reg : Half) (v0 v1 : Byte) (s : State) :
    writeSingleDispatch reg v0 v1 s = .next { s with
      lStart := reg, payload := orderPayload s.cfgOrder 1 [v0, v1], phase := .capIO,
      capReq := some (.write s.cfgBase reg 1 (orderPayload s.cfgOrder 1 [v0, v1])), capAns := none } := rfl

/-- Settles O19: `writeSingleDispatch_calls`, with the one pair of value bytes read off for each order. -/
theorem writeSingleCalls : Obligations.WriteSingleCalls := by
  intro addr reg v0 v1 s p
  rw [exec_reqWriteSingle_of_dispatch addr reg v0 v1 p, writeSingleDispatch_calls]
  cases s.cfgOrder with
  | lowHigh => simp only [orderPayload_lowHigh]
  | highLow => simp only [orderPayload_highLow, swapPairs_succ, swapPairs_zero]

end Sys2Proof.Machine

/-! PROOFS. The hexadecimal text of a frame (44_response_decoder R270). -/

namespace Sys2Proof.Machine

theorem hexDigit_of_lt {n : Nat} (h : n < 16) :
    ['0', '1', '2', '3', '4', '5', '6', '7', '8', '9', 'A', 'B', 'C', 'D', 'E', 'F'][n]?
      = some (hexDigit n) :=
  (List.getElem?_eq_getElem h).trans (congrArg some (List.getD_eq_getElem _ _ h).symm)

@[simp] theorem toHexString_nil : toHexString [] = [] := rfl

@[simp] theorem toHexString_cons_cons (b c : Byte) (F : List Byte) :
    toHexString (b :: c :: F)
      = hexDigit (b.toNat / 16) :: hexDigit (b.toNat % 16) :: ' ' :: toHexString (c :: F) := rfl

theorem length_toHexString (F : List Byte) : (toHexString F).length = 3 * F.length - 1 := by
  induction F using toHexString.induct with
  | case1 => rfl
  | case2 b => rfl
  | case3 b F hF ih =>
    obtain ⟨c, F, rfl⟩ := List.exists_cons_of_ne_nil hF
    simp only [toHexString_cons_cons, List.length_cons] at ih ⊢
    omega

/-- The text behind the first byte and its space is the text of the remaining bytes. -/
theorem getElem?_toHexString_cons_cons (b c : Byte) (F : List Byte) (k i : Nat) :
    (toHexString (b :: c :: F))[3 * (k + 1) + i]? = (toHexString (c :: F))[3 * k + i]? := by
  rw [show 3 * (k + 1) + i = 3 * k + i + 3 by omega]
  rfl

/-- Where byte `k` stands in the text: its digits, and the space that follows it unless it is the last. -/
theorem getElem?_toHexString (F : List Byte) {k : Nat} (h : k < F.length) :
    (toHexString F)[3 * k]? = some (hexDigit ((byteAt F k).toNat / 16))
    ∧ (toHexString F)[3 * k + 1]? = some (hexDigit ((byteAt F k).toNat % 16))
    ∧ (k + 1 < F.length → (toHexString F)[3 * k + 2]? = some ' ') := by
  induction F using toHexString.induct generalizing k with
  | case1 => exact absurd h (Nat.not_lt_zero k)
  | case2 b =>
    obtain rfl : k = 0 := Nat.lt_one_iff.mp h
    exact ⟨rfl, rfl, fun h1 => absurd h1 (Nat.lt_irrefl 1)⟩
  | case3 b F hF ih =>
    obtain ⟨c, F, rfl⟩ := List.exists_cons_of_ne_nil hF
    cases k with
    | zero => exact ⟨rfl, rfl, fun _ => rfl⟩
    | succ k =>
      obtain ⟨hhigh, hlow, hspace⟩ := ih (Nat.lt_of_succ_lt_succ h)
      exact ⟨(getElem?_toHexString_cons_cons b c F k 0).trans hhigh,
        (getElem?_toHexString_cons_cons b c F k 1).trans hlow,
        fun hk => (getElem?_toHexString_cons_cons b c F k 2).trans (hspace (Nat.lt_of_succ_lt_succ hk))⟩

theorem exec_hex (s : State) :
    exec .hex s = .next { s with
      resText := toHexString s.inp, resKind := .text, phase := .idle, pending := none } := rfl

/-- Settles O35: `exec_hex` for the operation, `length_toHexString` and `getElem?_toHexString` for the text. -/
theorem hexText : Obligations.HexText := by
  refine ⟨exec_hex, toHexString_nil, fun F k h => ?_⟩
  obtain ⟨hhigh, hlow, hspace⟩ := getElem?_toHexString F h
  have hb : (byteAt F k).toNat < 256 := (byteAt F k).isLt
  exact ⟨length_toHexString F, hhigh.trans (hexDigit_of_lt (by omega)).symm,
    hlow.trans (hexDigit_of_lt (by omega)).symm, hspace⟩

end Sys2Proof.Machine

/-! PROOFS. Exceptional outcomes (60_exceptions): a capability that breaks its contract (R305). -/

namespace Sys2Proof.Machine

theorem inDispatch_of_capIO (start resume : State → Result) {s : State} (p : s.phase = .capIO) :
    inDispatch start resume s = resume s := by
  simp [inDispatch, p]

theorem CapAnswer.breaksReadContract_iff (n : Half) (a : CapAnswer) :
    a.breaksReadContract n = true ↔ 256 ≤ a.code ∨ (a.code = 0 ∧ a.bytes.length ≠ 2 * n.toNat) := by
  simp [breaksReadContract]

theorem readResume_of_broken {s : State} {a : CapAnswer} (ha : s.capAns = some a)
    (hb : a.breaksReadContract s.lCount = true) : readResume s = .fault .capabilityContract := by
  simp [readResume, ha, hb]

theorem writeResume_of_broken {s : State} {a : CapAnswer} (ha : s.capAns = some a)
    (hb : 256 ≤ a.code) : writeResume s = .fault .capabilityContract := by
  simp [writeResume, ha, CapAnswer.breaksWriteContract, hb]

/-- Settles O22: in CAP_IO each row is its resumption, whatever its operands, and that faults first. -/
theorem brokenContractFaults : Obligations.BrokenContractFaults := by
  intro s a p ha
  refine ⟨fun hb addr start count => ?read, fun hb => ?write⟩
  case read =>
    have hfault := readResume_of_broken ha ((a.breaksReadContract_iff s.lCount).mpr hb)
    exact ⟨(inDispatch_of_capIO _ readResume p).trans hfault,
      (inDispatch_of_capIO _ readResume p).trans hfault⟩
  case write =>
    have hfault := writeResume_of_broken ha hb
    exact ⟨fun _ _ _ _ => (inDispatch_of_capIO _ writeResume p).trans hfault,
      fun _ _ _ _ _ => (inDispatch_of_capIO _ writeResume p).trans hfault⟩

end Sys2Proof.Machine

/-! PROOFS. Encoding and decoding (30_encoding): every well-formed instruction comes back from its bytes. -/

namespace Sys2Proof.Machine

@[simp] theorem byteAt_cons_zero (x : Byte) (F : List Byte) : byteAt (x :: F) 0 = x := rfl

@[simp] theorem byteAt_cons_succ (x : Byte) (F : List Byte) (i : Nat) :
    byteAt (x :: F) (i + 1) = byteAt F i := rfl

theorem not_known_of_bit7 {F : List Byte} (h : bit7 (byteAt F 1) = true) : ¬ KnownRequestFc F := by
  rintro (e | e | e | e) <;> simp [bit7, e] at h

/-- The bytes that stand between the first `A.length` bytes of a sealed frame and its checksum. -/
theorem slice_sealed_append (A D : List Byte) {b : Nat} (hb : A.length + D.length = b) :
    slice (sealed (A ++ D)) A.length b = D := by
  rw [sealed_eq, List.append_assoc]
  exact slice_middle rfl hb

end Sys2Proof.Machine

namespace Sys2Proof

open Machine

theorem decodeOp_of_reserved {op : Byte} (h : reservedSelector op = true) :
    decodeOp op = .reservedOp op := by
  have hne : ∀ n : Nat, 0 < n → n < 0x0C → op ≠ BitVec.ofNat 8 n := by
    rintro n h0 h12 rfl
    simp [reservedSelector] at h
    omega
  simp [decodeOp, hne]

theorem decodeSelector_encode {i : Instr} (hs : i.space = .selector) (hw : i.wellFormed = true) :
    decodeSelector (encode i) = .ok i := by
  cases i
  case reservedOp op => exact congrArg Except.ok (decodeOp_of_reserved hw)
  case crc | vreq | vrsp | proc | brhr | brir | bwsr | bwmr | drsp | dfld | hex => rfl
  all_goals cases hs

/-- A sealed request of a fitting length decodes to its fields: its length and checksum are in order. -/
theorem decodeRequest_sealed {B : List Byte} (h : requestLengthFits (sealed B) = true) :
    decodeRequest (sealed B) = .ok (requestFields (sealed B)) := by
  simp [decodeRequest, h]

theorem decodeRequest_encode_reqWriteMultiple (addr : Byte) (start rc : Half) {bc : Byte} {data : List Byte}
    (hd : data.length = bc.toNat) :
    decodeRequest (encode (.reqWriteMultiple addr start rc bc data))
      = .ok (.reqWriteMultiple addr start rc bc data) := by
  have hdata := slice_sealed_append [addr, 0x10#8, hi8 start, lo8 start, lo8 rc, hi8 rc, bc] data
    (b := 7 + bc.toNat) (congrArg (7 + ·) hd)
  refine (decodeRequest_sealed ?_).trans (congrArg Except.ok ?_)
  · simp [requestLengthFits, sealed, hd]; omega
  · exact Eq.trans (by simp [requestFields, sealed]) (congrArg (Instr.reqWriteMultiple addr start rc bc) hdata)

theorem decodeRequest_encode_reqUnsupported (addr : Byte) {fc : Byte} (body : List Byte)
    (hfc : supportedFc fc = false) :
    decodeRequest (encode (.reqUnsupported addr fc body)) = .ok (.reqUnsupported addr fc body) := by
  have hdata := slice_sealed_append [addr, fc] body
    (b := (sealed ([addr, fc] ++ body)).length - 2) (by simp; omega)
  simp only [supportedFc, Bool.or_eq_false_iff] at hfc
  refine (decodeRequest_sealed ?_).trans (congrArg Except.ok ?_)
  · simp [requestLengthFits, sealed, hfc]
  · exact Eq.trans (by simp [requestFields, sealed, hfc]) (congrArg (Instr.reqUnsupported addr fc) hdata)

theorem decodeRequest_encode {i : Instr} (hs : i.space = .request) (hw : i.wellFormed = true) :
    decodeRequest (encode i) = .ok i := by
  cases i
  case reqReadHolding addr start count =>
    exact (decodeRequest_sealed rfl).trans (by simp [requestFields, sealed])
  case reqReadInput addr start count =>
    exact (decodeRequest_sealed rfl).trans (by simp [requestFields, sealed])
  case reqWriteSingle addr reg v0 v1 =>
    exact (decodeRequest_sealed rfl).trans (by simp [requestFields, sealed])
  case reqWriteMultiple addr start rc bc data =>
    exact decodeRequest_encode_reqWriteMultiple addr start rc (beq_iff_eq.mp hw)
  case reqUnsupported addr fc body =>
    exact decodeRequest_encode_reqUnsupported addr body ((Bool.not_eq_true' _).mp hw)
  all_goals cases hs

theorem decodeResponse_encode_rspRead (addr : Byte) {fc bc : Byte} {data : List Byte}
    (hfc : fc = 0x03#8 ∨ fc = 0x04#8) (hd : data.length = bc.toNat) :
    decodeResponse (encode (.rspRead addr fc bc data)) = .ok (.rspRead addr fc bc data) := by
  have hdata := slice_sealed_append [addr, fc, bc] data (b := 3 + bc.toNat) (congrArg (3 + ·) hd)
  refine Eq.trans ?_ (congrArg (fun d => Except.ok (Instr.rspRead addr fc bc d)) hdata)
  have hlen : ¬ data.length + 2 + 1 + 1 + 1 < 3 + bc.toNat := by omega
  rcases hfc with rfl | rfl <;> simp [decodeResponse, encode, sealed, hlen]

/-- A set bit 7 of byte 1 leaves only the error rows. -/
theorem decodeResponse_of_bit7 {F : List Byte} (hl : 3 ≤ F.length) (h : bit7 (byteAt F 1) = true) :
    decodeResponse F = .ok (errorRow (byteAt F 0) (byteAt F 1) (byteAt F 2)) := by
  have hk := not_known_of_bit7 h
  have h2 : ¬ F.length < 2 := by omega
  simp only [KnownRequestFc, not_or] at hk
  simp [decodeResponse, h, h2, Nat.not_lt.mpr hl, hk]

theorem decodeResponse_encode_error {addr fc code : Byte} {i : Instr} (he : encode i = sealed [addr, fc, code])
    (hb : bit7 fc = true) (hi : errorRow addr fc code = i) : decodeResponse (encode i) = .ok i := by
  rw [he, ← hi]
  exact decodeResponse_of_bit7 (by simp) hb

theorem decodeResponse_encode {i : Instr} (hs : i.space = .response) (hw : i.wellFormed = true) :
    decodeResponse (encode i) = .ok i := by
  cases i
  case rspRead addr fc bc data =>
    simp only [Instr.wellFormed, Bool.and_eq_true, Bool.or_eq_true, beq_iff_eq] at hw
    exact decodeResponse_encode_rspRead addr hw.1 hw.2
  case rspWriteSingle addr reg v0 v1 => simp [decodeResponse, encode, sealed]
  case rspWriteMultiple addr start rc => simp [decodeResponse, encode, sealed]
  case rspError83 addr code => exact decodeResponse_encode_error rfl rfl rfl
  case rspError84 addr code => exact decodeResponse_encode_error rfl rfl rfl
  case rspError86 addr code => exact decodeResponse_encode_error rfl rfl rfl
  case rspError90 addr code => exact decodeResponse_encode_error rfl rfl rfl
  case rspErrorOther addr fc code =>
    simp only [Instr.wellFormed, Bool.and_eq_true, Bool.not_eq_true', errorFc, Bool.or_eq_false_iff] at hw
    exact decodeResponse_encode_error rfl hw.1 (by simp [errorRow, hw])
  case rspUnrecognized addr fc =>
    simp only [Instr.wellFormed, Bool.and_eq_true, Bool.not_eq_true', supportedFc, Bool.or_eq_false_iff] at hw
    simp [decodeResponse, encode, sealed, hw]
  all_goals cases hs

theorem decodeEmitted_encode {i : Instr} (hs : i.space = .emitted) (hw : i.wellFormed = true) :
    decodeEmitted (encode i) = .ok i := by
  cases i
  case errorFrameEmit addr efc code =>
    have hb : bit7 efc = true := hw
    simp only [decodeEmitted, encode, crcOk_sealed]
    simp [sealed, hb]
  all_goals cases hs

/-- Settles O2, one encoding at a time. -/
theorem decodeOfEncodeIsTheInstruction : Obligations.DecodeOfEncodeIsTheInstruction := by
  intro i hw
  cases hs : i.space with
  | selector => exact decodeSelector_encode hs hw
  | request => exact decodeRequest_encode hs hw
  | response => exact decodeResponse_encode hs hw
  | emitted => exact decodeEmitted_encode hs hw

end Sys2Proof

/-! PROOFS. Request frames (30_encoding R95, 41_validator R141): which bytes decode, to what, and that
nothing of the frame is lost. -/

namespace Sys2Proof.Machine

/-- The first bytes of a frame, one by one. -/
theorem take_eq_map_byteAt {F : List Byte} {n : Nat} (h : n ≤ F.length) :
    F.take n = (List.range n).map (byteAt F) := by
  refine List.ext_getElem (by simp [h]) fun i hi _ => ?_
  have hF : i < F.length := Nat.lt_of_lt_of_le hi (List.length_take_le' n F)
  simp [byteAt, hF]

theorem take_append_slice (F : List Byte) {a b : Nat} (h : a ≤ b) : F.take a ++ slice F a b = F.take b := by
  calc F.take a ++ slice F a b
    _ = (F.take b).take a ++ (F.take b).drop a := by rw [List.take_take, Nat.min_eq_left h, slice]
    _ = F.take b := List.take_append_drop a _

theorem slice_length {F : List Byte} {a b : Nat} (h : b ≤ F.length) : (slice F a b).length = b - a := by
  simp [slice, h]

theorem RequestShaped.two_le {F : List Byte} (h : RequestShaped F) : 2 ≤ F.length := by
  rcases h with ⟨-, h⟩ | ⟨-, h, -⟩ <;> omega

theorem knownRequestFc_iff (F : List Byte) : KnownRequestFc F ↔ supportedFc (byteAt F 1) = true := by
  simp [KnownRequestFc, supportedFc, or_assoc]

theorem classifyRequest_valid_iff (p : UnsupportedFcPolicy) (F : List Byte) :
    classifyRequest p F = .valid ↔ RequestShaped F ∧ crcOk F = true := by
  rcases validateRequest_cases F with ⟨h2, hv⟩ | ⟨h2, hk, hv⟩ | ⟨h2, hk, hs, hv⟩ | ⟨h2, hs, hc, hv⟩
    | ⟨h2, hs, hc, hv⟩
  · have hs : ¬ RequestShaped F := fun hs => absurd hs.two_le (Nat.not_le.mpr h2)
    simp [classifyRequest_of_invalid p (by decide) hv, hs]
  · have hs : ¬ RequestShaped F := fun hs => hk hs.known
    cases p with
    | drop => simp [classifyRequest_drop hv, hs]
    | illegalFunction => simp only [classifyRequest_illegalFunction hv, hs]; split_ifs <;> simp
  · simp [classifyRequest_of_invalid p (by decide) hv, hs]
  · simp [classifyRequest_of_invalid p (by decide) hv, hc]
  · simp [classifyRequest_of_valid p hv, hs, hc]

theorem classifyRequest_unsupported_iff (p : UnsupportedFcPolicy) (F : List Byte) :
    classifyRequest p F = .unsupported
      ↔ p = .illegalFunction ∧ ¬ KnownRequestFc F ∧ 4 ≤ F.length ∧ crcOk F = true := by
  rcases validateRequest_cases F with ⟨h2, hv⟩ | ⟨h2, hk, hv⟩ | ⟨h2, hk, hs, hv⟩ | ⟨h2, hs, hc, hv⟩
    | ⟨h2, hs, hc, hv⟩
  · have h4 : ¬ 4 ≤ F.length := by omega
    simp [classifyRequest_of_invalid p (by decide) hv, h4]
  · cases p with
    | drop => simp [classifyRequest_drop hv]
    | illegalFunction =>
      rw [classifyRequest_illegalFunction hv]
      by_cases h4 : F.length < 4
      · simp [h4, Nat.not_le.mpr h4]
      · simp [h4, Nat.not_lt.mp h4, hk]
  · simp [classifyRequest_of_invalid p (by decide) hv, hk]
  · simp [classifyRequest_of_invalid p (by decide) hv, hc]
  · simp [classifyRequest_of_valid p hv, hs.known]

end Sys2Proof.Machine

namespace Sys2Proof

open Machine

theorem requestLengthFits_iff (F : List Byte) :
    requestLengthFits F = true ↔ RequestShaped F ∨ (¬ KnownRequestFc F ∧ 4 ≤ F.length) := by
  by_cases hk : KnownRequestFc F
  · rcases hk with h | h | h | h <;> simp [requestLengthFits, RequestShaped, KnownRequestFc, h]
  · have hs : ¬ RequestShaped F := fun hs => hk hs.known
    simp only [KnownRequestFc, not_or] at hk
    simp [requestLengthFits, hs, hk, KnownRequestFc]

theorem decodeRequest_ok_iff (F : List Byte) (i : Instr) :
    decodeRequest F = .ok i
      ↔ (RequestShaped F ∨ (¬ KnownRequestFc F ∧ 4 ≤ F.length)) ∧ crcOk F = true
        ∧ i = requestFields F := by
  rw [← requestLengthFits_iff]
  constructor
  · intro h
    exact (decodeRequest_ok h).2
  · rintro ⟨hf, hc, rfl⟩
    have h2 : ¬ F.length < 2 := by
      rcases (requestLengthFits_iff F).mp hf with hs | ⟨-, h4⟩
      · exact Nat.not_lt.mpr hs.two_le
      · omega
    simp [decodeRequest, h2, hf, hc]

theorem requestFields_of_writeSingle {F : List Byte} (h : byteAt F 1 = 0x06#8) :
    requestFields F
      = .reqWriteSingle (byteAt F 0) (be16 (byteAt F 2) (byteAt F 3)) (byteAt F 4) (byteAt F 5) := by
  simp [requestFields, h]

theorem requestFields_of_writeMultiple {F : List Byte} (h : byteAt F 1 = 0x10#8) :
    requestFields F
      = .reqWriteMultiple (byteAt F 0) (be16 (byteAt F 2) (byteAt F 3)) (le16 (byteAt F 4) (byteAt F 5))
          (byteAt F 6) (slice F 7 (7 + (byteAt F 6).toNat)) := by
  simp [requestFields, h]

theorem requestFields_of_unknown {F : List Byte} (h : ¬ KnownRequestFc F) :
    requestFields F = .reqUnsupported (byteAt F 0) (byteAt F 1) (slice F 2 (F.length - 2)) := by
  simp only [KnownRequestFc, not_or] at h
  simp [requestFields, h]

theorem requestFields_ne_reqUnsupported {F : List Byte} (h : KnownRequestFc F) (a fc : Byte) (body : List Byte) :
    requestFields F ≠ .reqUnsupported a fc body := by
  rcases h with h | h | h | h <;> simp [requestFields, h]

/-- Settles O4: both sides say that the length fits the function code and the checksum is right. -/
theorem requestDecodesWhereClassified : Obligations.RequestDecodesWhereClassified := by
  intro F
  simp only [decode, decodeRequest_ok_iff, classifyRequest_valid_iff, classifyRequest_unsupported_iff]
  constructor
  · constructor
    · rintro ⟨-, hs | ⟨hk, h4⟩, hc, -⟩
      · exact .inl ⟨hs, hc⟩
      · exact .inr ⟨trivial, hk, h4, hc⟩
    · rintro (⟨hs, hc⟩ | ⟨-, hk, h4, hc⟩)
      · exact ⟨_, .inl hs, hc, rfl⟩
      · exact ⟨_, .inr ⟨hk, h4⟩, hc, rfl⟩
  · constructor
    · rintro ⟨a, fc, body, hs | ⟨hk, h4⟩, hc, hi⟩
      · exact absurd hi.symm (requestFields_ne_reqUnsupported hs.known a fc body)
      · exact ⟨trivial, hk, h4, hc⟩
    · rintro ⟨-, hk, h4, hc⟩
      exact ⟨_, _, _, .inr ⟨hk, h4⟩, hc, (requestFields_of_unknown hk).symm⟩

/-- The fields of a request whose length fits are all of its bytes but the checksum. -/
theorem encode_requestFields {F : List Byte} (hf : requestLengthFits F = true) :
    encode (requestFields F) = sealed (covered F) := by
  unfold covered
  rcases (requestLengthFits_iff F).mp hf with (⟨h, hl⟩ | ⟨h, h9, hl⟩) | ⟨hk, h4⟩
  · have hb : F.take (F.length - 2)
        = [byteAt F 0, byteAt F 1, byteAt F 2, byteAt F 3, byteAt F 4, byteAt F 5] := by
      rw [hl]; exact take_eq_map_byteAt (by omega)
    rcases h with h | h | h <;> simp [requestFields, encode, hb, h]
  · have hb : F.take 7 = [byteAt F 0, byteAt F 1, byteAt F 2, byteAt F 3, byteAt F 4, byteAt F 5, byteAt F 6] :=
      take_eq_map_byteAt (by omega)
    rw [← take_append_slice F (a := 7) (by omega), hb, show F.length - 2 = 7 + (byteAt F 6).toNat by omega]
    simp [requestFields_of_writeMultiple h, encode, h]
  · have hb : F.take 2 = [byteAt F 0, byteAt F 1] := take_eq_map_byteAt (by omega)
    rw [requestFields_of_unknown hk, ← take_append_slice F (a := 2) (by omega), hb]
    rfl

theorem requestFields_wellFormed {F : List Byte} (hf : requestLengthFits F = true) :
    (requestFields F).wellFormed = true := by
  rcases requestFields_cases F with ⟨h, e⟩ | ⟨h, e⟩ | ⟨h, e⟩ | ⟨h, e⟩ | ⟨h, e⟩ <;> rw [e]
  · rfl
  · rfl
  · rfl
  · have hl : 9 ≤ F.length ∧ F.length = 9 + (byteAt F 6).toNat := by simpa [requestLengthFits, h] using hf
    simp only [Instr.wellFormed, slice_length (F := F) (a := 7) (b := 7 + (byteAt F 6).toNat) (by omega)]
    simp
  · simp [Instr.wellFormed, h]

theorem requestFields_space (F : List Byte) : (requestFields F).space = .request := by
  rcases requestFields_cases F with ⟨-, e⟩ | ⟨-, e⟩ | ⟨-, e⟩ | ⟨-, e⟩ | ⟨-, e⟩ <;> rw [e] <;> rfl

/-- Settles O3: a frame that decodes is the seal of the bytes of its fields. -/
theorem requestDecodeIsExact : Obligations.RequestDecodeIsExact := by
  intro F i h
  obtain ⟨-, hf, hc, rfl⟩ := decodeRequest_ok h
  exact ⟨(encode_requestFields hf).trans (sealed_covered hc), requestFields_wellFormed hf,
    requestFields_space F⟩

end Sys2Proof

/-! PROOFS. The checksum (40_crc): the accumulator as the rule on naturals (R130), and a sealed frame's
checksum (R134). -/

namespace Sys2Proof.Machine

theorem crcRound_toNat (acc : Half) : (crcRound acc).toNat = natRound acc.toNat := by
  have hbit : acc.getLsbD 0 = decide (acc.toNat % 2 = 1) := Nat.testBit_zero acc.toNat
  by_cases h : acc.toNat % 2 = 1
  · simp only [crcRound, natRound, hbit, h, if_true, decide_true, BitVec.toNat_xor, BitVec.toNat_ushiftRight]
    rfl
  · simp only [crcRound, natRound, hbit, h, if_false, decide_false]
    rfl

theorem crcRounds_toNat (acc : Half) : (crcRounds acc).toNat = natRound^[8] acc.toNat := by
  simp only [crcRounds, crcRound_toNat]
  rfl

/-- XOR into the low byte meets no bit of the high byte. -/
theorem hi8_append_lo8_xor_toNat (acc : Half) (b : Byte) :
    (hi8 acc ++ (lo8 acc ^^^ b)).toNat = acc.toNat ^^^ b.toNat := by
  have h : hi8 acc ++ (lo8 acc ^^^ b) = acc ^^^ b.setWidth 16 := by
    refine BitVec.eq_of_getLsbD_eq fun i hi => BitVec.getLsbD_append.trans ?_
    by_cases h8 : i < 8
    · simp [lo8, h8, hi]
    · have hb : b.getLsbD i = false := BitVec.getLsbD_of_ge b i (Nat.not_lt.mp h8)
      have hj : i - 8 < 8 := by omega
      simp [hi8, h8, hj, hb, Nat.add_sub_cancel' (Nat.not_lt.mp h8)]
  rw [h, BitVec.toNat_xor, BitVec.toNat_setWidth, Nat.mod_eq_of_lt (by omega)]

theorem crcByte_toNat (acc : Half) (b : Byte) : (crcByte acc b).toNat = natByte acc.toNat b := by
  rw [crcByte, crcRounds_toNat, hi8_append_lo8_xor_toNat, natByte]

theorem crcFrom_toNat (acc : Half) (B : List Byte) : (crcFrom acc B).toNat = B.foldl natByte acc.toNat := by
  induction B generalizing acc with
  | nil => rfl
  | cons b B ih =>
    simp only [crcFrom, List.foldl_cons] at ih ⊢
    rw [ih, crcByte_toNat]

/-- Settles O7, from any value of the accumulator. -/
theorem checksumIsTheRuleOnNaturals : Obligations.ChecksumIsTheRuleOnNaturals :=
  crcFrom_toNat 0xFFFF#16

theorem natRound_two_mul (n : Nat) : natRound (2 * n) = n := by
  simp [natRound]

/-- Rounds on zero bits are shifts alone. -/
theorem natRound_iterate_two_pow_mul (k n : Nat) : natRound^[k] (2 ^ k * n) = n := by
  induction k with
  | zero => simp
  | succ k ih => rw [Function.iterate_succ_apply, Nat.pow_succ', Nat.mul_assoc, natRound_two_mul, ih]

/-- The low byte of the accumulator, fed back, leaves the high byte. -/
theorem natByte_lo8 (acc : Half) : natByte acc.toNat (lo8 acc) = (hi8 acc).toNat := by
  have h : acc.toNat ^^^ (lo8 acc).toNat = 2 ^ 8 * (hi8 acc).toNat := by
    rw [← hi8_append_lo8_xor_toNat, BitVec.xor_self, BitVec.toNat_append]
    simp [Nat.shiftLeft_eq, Nat.mul_comm]
  rw [natByte, h, natRound_iterate_two_pow_mul]

theorem natByte_self (b : Byte) : natByte b.toNat b = 0 := by
  rw [natByte, Nat.xor_self]
  exact natRound_iterate_two_pow_mul 8 0

theorem crcFrom_own_bytes (acc : Half) : crcFrom acc [lo8 acc, hi8 acc] = 0#16 := by
  apply BitVec.eq_of_toNat_eq
  rw [crcFrom_toNat]
  simp only [List.foldl_cons, List.foldl_nil, natByte_lo8, natByte_self]
  rfl

theorem crc_sealed (B : List Byte) : crc (sealed B) = 0#16 := by
  rw [crc, crcFrom, sealed, List.foldl_append]
  exact crcFrom_own_bytes (crc B)

/-- Settles O6: `crcOk_sealed` is the source's property, `crc_sealed` the spec's inference. -/
theorem sealThenVerify : Obligations.SealThenVerify := fun B => ⟨crcOk_sealed B, crc_sealed B⟩

end Sys2Proof.Machine

/-! PROOFS. What the instruction in flight can do (10_state R31, 42_slave_processor R175), said once. -/

namespace Sys2Proof.Machine

/-- What PROC keeps until it ends: the parameters, the host's list, the operands and the result. -/
structure Keeps (s t : State) : Prop where
  params : t.params = s.params
  host : t.host = s.host
  operands : SameOperands s t
  resKind : t.resKind = s.resKind
  resFrame : t.resFrame = s.resFrame

/-- Everything the instruction that PHASE is at can do. -/
inductive InFlight (u : State) : Result → Prop where
  /-- VALIDATE lets the request through. -/
  | accepts (v : State) (k : Keeps u v) (p : u.phase = .validate)
      (d : decodeRequest u.inp = .ok (requestFields u.inp))
      (addr : v.lAddr = byteAt u.inp 0) (fc : v.lFc = byteAt u.inp 1) (bcast : v.lBcast = (byteAt u.inp 0 == 0#8))
      (req : v.capReq = u.capReq) (ans : v.capAns = u.capAns) (pending : v.pending = u.pending) :
      InFlight u (.next { v with phase := .dispatch })
  /-- An outcome is fixed. -/
  | concludes (v : State) (k : Keeps u v) (o : Pending)
      (p : u.phase = .validate ∨ u.phase = .dispatch ∨ u.phase = .capIO) (ho : o ≠ .decode) :
      InFlight u (.next (v.conclude o))
  /-- A read in range that is no broadcast calls. -/
  | reads (start count : Half) (p : u.phase = .dispatch)
      (d : decodeRequest u.inp = .ok (requestFields u.inp))
      (fc : byteAt u.inp 1 = 0x03#8 ∨ byteAt u.inp 1 = 0x04#8) (addr : byteAt u.inp 0 ≠ 0#8)
      (hs : start = be16 (byteAt u.inp 2) (byteAt u.inp 3)) (hc : count = be16 (byteAt u.inp 4) (byteAt u.inp 5))
      (range : start.toNat + count.toNat ≤ u.cfgTotal.toNat) :
      InFlight u (.next ({ u with lStart := start, lCount := count }.call (.read u.cfgBase start count)))
  /-- A write-single calls. -/
  | writesSingle (start : Half) (data : List Byte) (p : u.phase = .dispatch)
      (d : decodeRequest u.inp = .ok (requestFields u.inp)) (fc : byteAt u.inp 1 = 0x06#8)
      (hs : start = be16 (byteAt u.inp 2) (byteAt u.inp 3))
      (hd : data = orderPayload u.cfgOrder 1 [byteAt u.inp 4, byteAt u.inp 5]) :
      InFlight u (.next ({ u with lStart := start, payload := data }.call (.write u.cfgBase start 1 data)))
  /-- A write-multiple in range calls. -/
  | writesMultiple (start : Half) (n : Nat) (data : List Byte) (p : u.phase = .dispatch)
      (d : decodeRequest u.inp = .ok (requestFields u.inp)) (fc : byteAt u.inp 1 = 0x10#8)
      (hs : start = be16 (byteAt u.inp 2) (byteAt u.inp 3)) (hn : n = (byteAt u.inp 6).toNat / 2)
      (hd : data = orderPayload u.cfgOrder n (slice u.inp 7 (7 + 2 * n))) :
      InFlight u (.next ({ u with lStart := start, lBc := byteAt u.inp 6, payload := data }.call
        (.write u.cfgBase start (BitVec.ofNat 16 n) data)))
  /-- The call has not returned. -/
  | waits (p : u.phase = .capIO) (ans : u.capAns = none) : InFlight u (.next u)
  /-- The capability has broken its contract. -/
  | faults (a : CapAnswer) (p : u.phase = .capIO) (ans : u.capAns = some a)
      (hb : 256 ≤ a.code ∨ ((byteAt u.inp 1 = 0x03#8 ∨ byteAt u.inp 1 = 0x04#8) ∧ a.code = 0
        ∧ a.bytes.length ≠ 2 * u.lCount.toNat)) : InFlight u (.fault .capabilityContract)
  /-- A request that makes no call stands in CAP_IO. -/
  | lost (p : u.phase = .capIO) (fc : supportedFc (byteAt u.inp 1) = false) : InFlight u (.fault .outOfSequence)
  /-- EMIT ends the operation. -/
  | ends (t : State) (p : u.phase = .emit) (e : Ends u t) : InFlight u (.next t)

theorem decodeRequest_of_class {p : UnsupportedFcPolicy} {F : List Byte}
    (h : classifyRequest p F = .valid ∨ classifyRequest p F = .unsupported) :
    decodeRequest F = .ok (requestFields F) := by
  rw [classifyRequest_valid_iff, classifyRequest_unsupported_iff] at h
  rw [decodeRequest_ok_iff]
  rcases h with ⟨hs, hc⟩ | ⟨-, hk, h4, hc⟩
  · exact ⟨.inl hs, hc, rfl⟩
  · exact ⟨.inr ⟨hk, h4⟩, hc, rfl⟩

theorem take_slice (F : List Byte) {a b n : Nat} (h : a + n ≤ b) : (slice F a b).take n = slice F a (a + n) := by
  rw [slice, slice, List.take_drop, List.take_take, Nat.min_eq_left h]

theorem validate_is {u : State} (p : u.phase = .validate) : InFlight u (procValidate u) := by
  rcases procValidate_cases u with ⟨r, -, e⟩ | ⟨-, -, -, e⟩ | ⟨hc, -, e⟩ <;> rw [e]
  · exact .concludes _ (by repeat' constructor) _ (.inl p) (by simp)
  · exact .concludes _ (by repeat' constructor) _ (.inl p) (by simp)
  · exact .accepts _ (by repeat' constructor) p (decodeRequest_of_class hc)
      rfl rfl rfl rfl rfl rfl

theorem dispatch_is {u : State} {i : Instr} (p : u.phase = .dispatch) (d : decodeRequest u.inp = .ok i) :
    InFlight u (exec i u) := by
  have hi : decodeRequest u.inp = .ok (requestFields u.inp) := by rw [d, (decodeRequest_ok d).2.2.2]
  rcases dispatch_exec p d with ⟨fc, e⟩ | ⟨fc, e⟩ | ⟨fc, e⟩ | ⟨fc, e⟩ <;> rw [e]
  · rcases readDispatch_cases (byteAt u.inp 0) (byteAt u.inp 1) (be16 (byteAt u.inp 2) (byteAt u.inp 3))
        (be16 (byteAt u.inp 4) (byteAt u.inp 5)) u with ⟨-, e⟩ | ⟨-, -, e⟩ | ⟨range, addr, e⟩ <;> rw [e]
    · exact .concludes _ (by repeat' constructor) _ (.inr (.inl p)) (by simp)
    · exact .concludes _ (by repeat' constructor) _ (.inr (.inl p)) (by simp)
    · exact .reads _ _ p hi fc addr rfl rfl range
  · exact .writesSingle _ _ p hi fc rfl rfl
  · rcases writeMultipleDispatch_cases (byteAt u.inp 0) (be16 (byteAt u.inp 2) (byteAt u.inp 3))
        (byteAt u.inp 6) (slice u.inp 7 (7 + (byteAt u.inp 6).toNat)) u with ⟨-, e⟩ | ⟨-, e⟩ <;> rw [e]
    · exact .concludes _ (by repeat' constructor) _ (.inr (.inl p)) (by simp)
    · rw [take_slice _ (by omega)]
      exact .writesMultiple _ _ _ p hi fc rfl rfl rfl
  · exact .concludes _ (by repeat' constructor) _ (.inr (.inl p)) (by simp)

theorem capIO_is {u : State} {i : Instr} (p : u.phase = .capIO) (d : decodeRequest u.inp = .ok i) :
    InFlight u (exec i u) := by
  rcases capIO_exec p d with ⟨fc, e⟩ | ⟨fc, e⟩ | ⟨fc, e⟩ <;> rw [e]
  · rcases readResume_cases u with ⟨ans, e⟩ | ⟨a, ans, ⟨hb, e⟩ | ⟨-, -, e⟩ | ⟨-, -, e⟩⟩ <;> rw [e]
    · exact .waits p ans
    · exact .faults a p ans (((a.breaksReadContract_iff _).mp hb).imp_right fun h => ⟨fc, h⟩)
    · exact .concludes _ (by repeat' constructor) _ (.inr (.inr p)) (by simp)
    · exact .concludes _ (by repeat' constructor) _ (.inr (.inr p)) (by simp)
  · rcases writeResume_cases u with
      ⟨ans, e⟩ | ⟨a, ans, ⟨hb, e⟩ | ⟨-, -, e⟩ | ⟨-, -, -, e⟩ | ⟨-, -, e⟩⟩ <;> rw [e]
    · exact .waits p ans
    · exact .faults a p ans (.inl hb)
    all_goals exact .concludes _ (by repeat' constructor) _ (.inr (.inr p)) (by simp)
  · exact .lost p fc

/-- The instruction that PHASE is at does one of these. -/
theorem current_is {u : State} {i : Instr} (n : u.current = some i) : InFlight u (exec i u) := by
  have hn := n
  unfold State.current at hn
  cases p : u.phase with
  | idle => simp [p] at hn
  | validate =>
    obtain rfl : Instr.proc = i := by simpa [p] using hn
    have e : exec .proc u = procValidate u := by simp [exec, execProc, p]
    rw [e]
    exact validate_is p
  | dispatch => exact dispatch_is p (toOption_eq_some (by simpa [p] using hn))
  | capIO => exact capIO_is p (toOption_eq_some (by simpa [p] using hn))
  | emit =>
    obtain ⟨t, e, ht⟩ := emit_ends p n
    rw [e]
    exact .ends t p ht

/-- Everything a step that goes on leads to. -/
inductive StepsTo (s : State) : State → Prop where
  /-- A reset. -/
  | reset (l : List HostEvent) (e : s.host = .reset :: l) : StepsTo s (s.withHost l).reboot
  /-- Nothing happens. -/
  | rests (l : List HostEvent) : StepsTo s (s.withHost l)
  /-- An issue is refused. -/
  | refuses (l : List HostEvent) : StepsTo s (s.withHost l).refuse
  /-- PROC is issued. -/
  | enters (c : Command) (l : List HostEvent) (e : s.host = .issue c :: l) (p : s.phase = .idle) :
      StepsTo s { (s.withHost l).accept c with phase := .validate }
  /-- Another operation is issued, and ends. -/
  | operates (c : Command) (l : List HostEvent) (e : s.host = .issue c :: l) (p : s.phase = .idle) (u t : State)
      (req : u.capReq = s.capReq) (ans : u.capAns = s.capAns) (params : u.params = s.params)
      (x : Ends u t) : StepsTo s t
  /-- The operation in flight makes its move. -/
  | runs (u t : State) (g : GoesOnFrom s u) (p : s.phase ≠ .idle) (f : InFlight u (.next t)) : StepsTo s t

theorem step_next {s t : State} (h : step s = .next t) : StepsTo s t := by
  have hs := step_is s
  rw [h] at hs
  generalize hr : (Host.Outcome.next t : Result) = r at hs
  cases hs with
  | reset l e => cases hr; exact .reset l e
  | waits p e => cases hr; exact .rests s.host
  | ignores v l e w => cases hr; exact .rests l
  | refuses c l e w => cases hr; exact .refuses l
  | entersProc c l e p w o => cases hr; exact .enters c l e p
  | operates c l e p w o i u x =>
    obtain ⟨t', ht', hends⟩ := operation_ends x o
    cases hr.trans ht'
    obtain ⟨req, ans, params⟩ : u.capReq = s.capReq ∧ u.capAns = s.capAns ∧ u.params = s.params := by
      cases x <;> exact ⟨rfl, rfl, rfl⟩
    exact .operates c l e p u t req ans params hends
  | stops u g p n => cases hr
  | runs u i g p n => exact .runs u t g p (hr ▸ current_is n)

end Sys2Proof.Machine

/-! PROOFS. The invariant of every run (10_state, 20_memory): it holds at reset and every step keeps it. -/

namespace Sys2Proof.Machine

/-- Before DISPATCH, with nothing in flight, the invariant speaks of the result alone. -/
theorem inv_of_resting {t : State} (p : t.phase = .idle ∨ t.phase = .validate) (req : t.capReq = none)
    (ans : t.capAns = none) (pending : t.pending = none)
    (kind : t.phase ≠ .idle → t.resKind = .none ∨ t.resKind = .refused)
    (frame : t.resKind = .frame → crcOk t.resFrame = true ∧ Params.fits t.params t.resFrame.length = true) :
    t.Inv where
  call_in_capIO := by rcases p with p | p <;> simp [p, req]
  no_answer_left := ans
  pending_in_emit := by rcases p with p | p <;> simp [p, pending]
  no_decode_left := by simp [pending]
  no_result_in_flight := kind
  request_latched := by rcases p with p | p <;> simp [p]
  fields_latched := by rcases p with p | p <;> simp [p]
  call_of_request := by simp [req]
  frame_sealed := frame

/-- Settles O45: the reset state is idle, and its one named result is none. -/
theorem invariantAtReset : Obligations.InvariantAtReset :=
  inv_of_resting (.inl rfl) rfl rfl rfl (fun p => absurd rfl p) nofun

theorem FieldsOfRequest.of_regs {s t : State} (e : t.toRegs = s.toRegs) (f : FieldsOfRequest s) :
    FieldsOfRequest t := by
  obtain ⟨start, count, byteCount, single, multiple⟩ := f
  constructor <;> rw [e] <;> assumption

theorem CallOfRequest.of_regs {s t : State} {r : CapReq} (e : t.toRegs = s.toRegs) (c : CallOfRequest s r) :
    CallOfRequest t r := by
  cases r <;> simpa only [CallOfRequest, e] using c

/-- The invariant leaves the host's list open, and lets a refusal replace the result. -/
theorem State.Inv.of_same {s t : State} (h : s.Inv) (regs : t.toRegs = s.toRegs) (phase : t.phase = s.phase)
    (req : t.capReq = s.capReq) (ans : t.capAns = none) (pending : t.pending = s.pending)
    (params : t.params = s.params) (kind : t.resKind = s.resKind ∨ t.resKind = .refused) : t.Inv where
  call_in_capIO := by rw [phase, req]; exact h.call_in_capIO
  no_answer_left := ans
  pending_in_emit := by rw [phase, pending]; exact h.pending_in_emit
  no_decode_left := by rw [pending]; exact h.no_decode_left
  no_result_in_flight := fun p => kind.elim (fun e => e ▸ h.no_result_in_flight (phase ▸ p)) .inr
  request_latched := by rw [phase, regs]; exact h.request_latched
  fields_latched := fun p => (h.fields_latched (phase ▸ p)).of_regs regs
  call_of_request := fun r e => (h.call_of_request r (req ▸ e)).of_regs regs
  frame_sealed := fun e => by
    rcases kind with k | k
    · rw [params, regs]; exact h.frame_sealed (k ▸ e)
    · rw [k] at e; cases e

/-- An outcome waits in EMIT, and no call is left in flight. -/
theorem inv_conclude {v : State} {o : Pending} (ho : o ≠ .decode)
    (kind : v.resKind = .none ∨ v.resKind = .refused) : (v.conclude o).Inv where
  call_in_capIO := by simp
  no_answer_left := rfl
  pending_in_emit := by simp
  no_decode_left := by simpa using ho
  no_result_in_flight := fun _ => kind
  request_latched := by simp
  fields_latched := by simp
  call_of_request := by simp
  frame_sealed := fun e => by rcases kind with k | k <;> simp [k] at e

/-- A call is in flight in CAP_IO, and is the request's. -/
theorem inv_call {v : State} {r : CapReq} (d : ∃ i, decode .request v.inp = .ok i)
    (header : v.lAddr = byteAt v.inp 0 ∧ v.lFc = byteAt v.inp 1 ∧ v.lBcast = (byteAt v.inp 0 == 0#8))
    (pending : v.pending = none) (kind : v.resKind = .none ∨ v.resKind = .refused) (f : FieldsOfRequest v)
    (c : CallOfRequest v r) : (v.call r).Inv where
  call_in_capIO := by simp
  no_answer_left := rfl
  pending_in_emit := by simp [pending]
  no_decode_left := by simp [pending]
  no_result_in_flight := fun _ => kind
  request_latched := fun _ => ⟨d, header⟩
  fields_latched := fun _ => f.of_regs (State.call_toRegs v r)
  call_of_request := fun _ e => Option.some.inj e ▸ c.of_regs (State.call_toRegs v r)
  frame_sealed := fun e => by rcases kind with k | k <;> simp [k] at e

/-- The header of a request that has passed VALIDATE stands in the latches (10_state R29). -/
theorem inv_dispatch {t : State} (p : t.phase = .dispatch) (req : t.capReq = none) (ans : t.capAns = none)
    (pending : t.pending = none) (kind : t.resKind = .none ∨ t.resKind = .refused)
    (d : ∃ i, decode .request t.inp = .ok i)
    (header : t.lAddr = byteAt t.inp 0 ∧ t.lFc = byteAt t.inp 1 ∧ t.lBcast = (byteAt t.inp 0 == 0#8)) :
    t.Inv where
  call_in_capIO := by simp [p, req]
  no_answer_left := ans
  pending_in_emit := by simp [p, pending]
  no_decode_left := by simp [pending]
  no_result_in_flight := fun _ => kind
  request_latched := fun _ => ⟨d, header⟩
  fields_latched := by simp [p]
  call_of_request := by simp [req]
  frame_sealed := fun e => by rcases kind with k | k <;> simp [k] at e

/-- The end of an operation that has no call in flight. -/
theorem Ends.inv {u t : State} (e : Ends u t) (req : u.capReq = none) (ans : u.capAns = none) : t.Inv :=
  inv_of_resting (.inl e.phase) (e.capReq.trans req) (e.capAns.trans ans) e.pending
    (fun p => absurd e.phase p) e.frame

theorem State.Inv.no_call {s : State} (h : s.Inv) (p : s.phase ≠ .capIO) : s.capReq = none := by
  simpa using mt h.call_in_capIO.mpr p

theorem State.Inv.nothing_pending {s : State} (h : s.Inv) (p : s.phase ≠ .emit) : s.pending = none := by
  simpa using mt h.pending_in_emit.mpr p

/-- Going on takes an event of the host, and hands over an answer in CAP_IO; nothing else changes. -/
theorem GoesOnFrom.eq {s u : State} (g : GoesOnFrom s u) :
    (∃ l, u = s.withHost l)
    ∨ (∃ l a, s.host = .answer a :: l ∧ s.phase = .capIO ∧ u = (s.withHost l).answered a) := by
  cases g with
  | alone h => exact .inl ⟨s.host, rfl⟩
  | quiet l e => exact .inl ⟨l, rfl⟩
  | answer a l e p => exact .inr ⟨l, a, e, p, rfl⟩

theorem orderPayload_eq (o : ByteOrder) (k : Nat) (B : List Byte) :
    orderPayload o k B = match o with
      | .lowHigh => B
      | .highLow => swapPairs k B := by
  cases o <;> rfl

theorem orderPayload_one (o : ByteOrder) (x y : Byte) :
    orderPayload o 1 [x, y] = match o with
      | .lowHigh => [x, y]
      | .highLow => [y, x] := by
  cases o <;> simp

theorem FieldsOfRequest.of_read {v : State} (fc : byteAt v.inp 1 = 0x03#8 ∨ byteAt v.inp 1 = 0x04#8)
    (start : v.lStart = be16 (byteAt v.inp 2) (byteAt v.inp 3))
    (count : v.lCount = be16 (byteAt v.inp 4) (byteAt v.inp 5)) : FieldsOfRequest v := by
  rcases fc with fc | fc <;> exact ⟨start, fun _ => count, by simp [fc], by simp [fc], by simp [fc]⟩

theorem FieldsOfRequest.of_single {v : State} (fc : byteAt v.inp 1 = 0x06#8)
    (start : v.lStart = be16 (byteAt v.inp 2) (byteAt v.inp 3))
    (payload : v.payload = orderPayload v.cfgOrder 1 [byteAt v.inp 4, byteAt v.inp 5]) : FieldsOfRequest v :=
  ⟨start, by simp [fc], by simp [fc], fun _ => payload.trans (orderPayload_one _ _ _), by simp [fc]⟩

theorem FieldsOfRequest.of_multiple {v : State} (fc : byteAt v.inp 1 = 0x10#8)
    (start : v.lStart = be16 (byteAt v.inp 2) (byteAt v.inp 3)) (bc : v.lBc = byteAt v.inp 6)
    (payload : v.payload = orderPayload v.cfgOrder ((byteAt v.inp 6).toNat / 2)
      (slice v.inp 7 (7 + 2 * ((byteAt v.inp 6).toNat / 2)))) : FieldsOfRequest v :=
  ⟨start, by simp [fc], fun _ => bc, by simp [fc], fun _ => payload.trans (orderPayload_eq _ _ _)⟩

/-- The data of a write-multiple that decodes are there to be sent. -/
theorem slice_length_of_multiple {F : List Byte} (d : decodeRequest F = .ok (requestFields F))
    (fc : byteAt F 1 = 0x10#8) {n : Nat} (hn : n = (byteAt F 6).toNat / 2) :
    (slice F 7 (7 + 2 * n)).length = 2 * n := by
  obtain ⟨-, hfit, -, -⟩ := decodeRequest_ok d
  have hl : 9 ≤ F.length ∧ F.length = 9 + (byteAt F 6).toNat := by simpa [requestLengthFits, fc] using hfit
  rw [slice_length (by omega)]
  omega

/-- What the instruction in flight leads to meets the invariant. -/
theorem InFlight.inv {s u t : State} (h : s.Inv) (p : s.phase ≠ .idle) (g : GoesOnFrom s u)
    (f : InFlight u (.next t)) : t.Inv := by
  obtain ⟨regs, phase, req, pending, params, resKind, ans⟩ : u.toRegs = s.toRegs ∧ u.phase = s.phase
      ∧ u.capReq = s.capReq ∧ u.pending = s.pending ∧ u.params = s.params ∧ u.resKind = s.resKind
      ∧ (u.phase ≠ .capIO → u.capAns = none) := by
    rcases g.eq with ⟨l, rfl⟩ | ⟨l, a, -, p, rfl⟩
    · exact ⟨rfl, rfl, rfl, rfl, rfl, rfl, fun _ => h.no_answer_left⟩
    · exact ⟨rfl, rfl, rfl, rfl, rfl, rfl, fun hp => absurd p hp⟩
  have kind : u.resKind = .none ∨ u.resKind = .refused := resKind ▸ h.no_result_in_flight p
  have no_call : u.phase ≠ .capIO → u.capReq = none := fun hp => req.trans (h.no_call (phase ▸ hp))
  have nothing : u.phase ≠ .emit → u.pending = none := fun hp => pending.trans (h.nothing_pending (phase ▸ hp))
  have header : u.phase = .dispatch → u.lAddr = byteAt u.inp 0 ∧ u.lFc = byteAt u.inp 1
      ∧ u.lBcast = (byteAt u.inp 0 == 0#8) := by
    intro hp
    rw [regs]
    exact (h.request_latched (.inl (phase ▸ hp))).2
  cases f with
  | accepts v k p d addr fc bcast hreq hans hpending =>
    have inp := k.operands.inp
    refine inv_dispatch rfl (hreq.trans (no_call (by simp [p]))) (hans.trans (ans (by simp [p])))
      (hpending.trans (nothing (by simp [p]))) (k.resKind ▸ kind) ⟨_, (congrArg _ inp).trans d⟩ ?_
    exact inp ▸ ⟨addr, fc, bcast⟩
  | concludes v k o p ho => exact inv_conclude ho (k.resKind ▸ kind)
  | reads start count p d fc addr hs hc range =>
    obtain ⟨ha, hf, hb⟩ := header p
    refine inv_call ⟨_, d⟩ ⟨ha, hf, hb⟩ (nothing (by simp [p])) kind (.of_read fc hs hc) ?_
    exact ⟨rfl, rfl, rfl, hf ▸ fc, by simp [hb, addr], range⟩
  | writesSingle start data p d fc hs hd =>
    obtain ⟨ha, hf, hb⟩ := header p
    refine inv_call ⟨_, d⟩ ⟨ha, hf, hb⟩ (nothing (by simp [p])) kind (.of_single fc hs hd) ?_
    exact ⟨rfl, rfl, rfl, by simp [hd], .inl ⟨hf.trans fc, rfl⟩⟩
  | writesMultiple start n data p d fc hs hn hd =>
    obtain ⟨ha, hf, hb⟩ := header p
    refine inv_call ⟨_, d⟩ ⟨ha, hf, hb⟩ (nothing (by simp [p])) kind (.of_multiple fc hs rfl (hn ▸ hd)) ?_
    have hlt : n < 2 ^ 16 := by have := (byteAt u.inp 6).isLt; omega
    refine ⟨rfl, rfl, rfl, ?_, .inr ⟨hf.trans fc, ?_⟩⟩
    · rw [hd, orderPayload_length, slice_length_of_multiple d fc hn, BitVec.toNat_ofNat, Nat.mod_eq_of_lt hlt]
    · rw [BitVec.toNat_ofNat, Nat.mod_eq_of_lt hlt, hn]
  | waits p hans => exact h.of_same regs phase req hans pending params (.inl resKind)
  | ends t p e => exact e.inv (no_call (by simp [p])) (ans (by simp [p]))

/-- Settles O46: a step outside an operation's flight leaves the engine at rest, and the instruction in
flight is `InFlight.inv`. -/
theorem stepKeepsTheInvariant : Obligations.StepKeepsTheInvariant := by
  intro s t h hst
  cases step_next hst with
  | reset l e => exact inv_of_resting (.inl rfl) rfl rfl rfl (fun p => absurd rfl p) nofun
  | rests l => exact h.of_same rfl rfl rfl h.no_answer_left rfl rfl (.inl rfl)
  | refuses l => exact h.of_same rfl rfl rfl h.no_answer_left rfl rfl (.inr rfl)
  | enters c l e p =>
    exact inv_of_resting (.inr rfl) (h.no_call (by simp [p])) h.no_answer_left
      (h.nothing_pending (by simp [p])) (fun _ => .inl rfl) nofun
  | operates c l e p u t req ans params x =>
    exact x.inv (req.trans (h.no_call (by simp [p]))) (ans.trans h.no_answer_left)
  | runs u t g p f => exact f.inv h p g

end Sys2Proof.Machine

/-! PROOFS. Steps of an operation in flight: safety of every move (10_state R20 to R32, 60_exceptions R305,
70_reset_and_hazards R352, R353). -/

namespace Sys2Proof.Machine

section GoesOn

variable {s u : State} (g : GoesOnFrom s u)
include g

theorem GoesOnFrom.regs : u.toRegs = s.toRegs := by cases g <;> rfl

theorem GoesOnFrom.phase : u.phase = s.phase := by cases g <;> rfl

theorem GoesOnFrom.capReq : u.capReq = s.capReq := by cases g <;> rfl

theorem GoesOnFrom.params : u.params = s.params := by cases g <;> rfl

end GoesOn

theorem InFlight.params {u t : State} (f : InFlight u (.next t)) : t.params = u.params := by
  cases f with
  | accepts v k => exact k.params
  | concludes v k => exact k.params
  | ends t p e => exact e.params
  | _ => rfl

/-- Settles O52: a reset keeps the parameters, and so does every move of an operation. -/
theorem parametersNeverChange : Obligations.ParametersNeverChange := by
  intro s t h
  cases step_next h with
  | operates c l e p u t req ans params x => exact x.params.trans params
  | runs u t g p f => exact f.params.trans g.params
  | _ => rfl

theorem SameOperands.of_regs {s t v : State} (k : SameOperands s t) (e : v.toRegs = t.toRegs) :
    SameOperands s v := by
  cases k
  constructor <;> rw [e] <;> assumption

theorem SameOperands.of_source {s u t : State} (k : SameOperands u t) (e : u.toRegs = s.toRegs) :
    SameOperands s t := by
  cases k
  constructor <;> rw [← e] <;> assumption

theorem InFlight.operands {u t : State} (f : InFlight u (.next t)) : SameOperands u t := by
  cases f with
  | accepts v k => exact k.operands.of_regs rfl
  | concludes v k => exact k.operands.of_regs (State.conclude_toRegs v _)
  | ends t p e => exact e.operands
  | _ => constructor <;> rfl

/-- Settles O53: only a reset and an issue in IDLE write an operand. -/
theorem operandsAreStable : Obligations.OperandsAreStable := by
  intro s t h no_reset no_issue
  suffices k : SameOperands s t from
    ⟨k.op, k.inp, k.devAddr, k.total, k.order, k.base, k.addr, k.start, k.count, k.value, k.bc, k.values⟩
  cases step_next h with
  | reset l e => exact absurd e (no_reset l)
  | rests l => constructor <;> rfl
  | refuses l => constructor <;> rfl
  | enters c l e p => exact absurd p (no_issue c l e)
  | operates c l e p => exact absurd p (no_issue c l e)
  | runs u t g p f => exact f.operands.of_source g.regs

theorem InFlight.phase {u t : State} (f : InFlight u (.next t)) : u.phase.mayFollow t.phase := by
  cases f with
  | accepts v k p => simp [Phase.mayFollow, p]
  | concludes v k o p => rcases p with p | p | p <;> simp [Phase.mayFollow, p]
  | reads start count p => simp [Phase.mayFollow, p]
  | writesSingle start data p => simp [Phase.mayFollow, p]
  | writesMultiple start n data p => simp [Phase.mayFollow, p]
  | waits => exact .inl rfl
  | ends t p e => simp [Phase.mayFollow, p, e.phase]

/-- Settles O51: a one-step operation ends in IDLE again; the moves in flight are `InFlight.phase`. -/
theorem phasesFollowInOrder : Obligations.PhasesFollowInOrder := by
  intro s t h
  cases step_next h with
  | reset l e => exact .inr ⟨rfl, l, e⟩
  | rests l => exact .inl (.inl rfl)
  | refuses l => exact .inl (.inl rfl)
  | enters c l e p => exact .inl (.inr (.inl ⟨p, rfl⟩))
  | operates c l e p u t req ans params x => exact .inl (.inl (x.phase.trans p.symm))
  | runs u t g p f => exact .inl (g.phase ▸ f.phase)

/-- Settles O50: of the moves of an operation in flight, the three that call stand in DISPATCH. -/
theorem callsComeFromRequestRows : Obligations.CallsComeFromRequestRows := by
  intro s t r h hs ht
  cases step_next h with
  | reset l e => cases ht
  | rests l => cases hs.symm.trans ht
  | refuses l => cases hs.symm.trans ht
  | enters c l e p => cases hs.symm.trans ht
  | operates c l e p u t req ans params x => cases (x.capReq.trans (req.trans hs)).symm.trans ht
  | runs u t g p f =>
    have hu : u.capReq = none := g.capReq.trans hs
    rw [← g.phase, ← g.regs]
    simp only [decode]
    cases f with
    | accepts v k p d addr fc bcast req => cases (req.trans hu).symm.trans ht
    | concludes => cases ht
    | waits => cases hu.symm.trans ht
    | ends t p e => cases (e.capReq.trans hu).symm.trans ht
    | reads start count p d fc addr hs hc range =>
      refine ⟨p, .inl ⟨byteAt u.inp 0, start, count, (Option.some.inj ht).symm, addr, ?_⟩⟩
      rcases fc with fc | fc <;> simp [d, requestFields, fc, hs, hc]
    | writesSingle start data p d fc hs hd =>
      rw [requestFields_of_writeSingle fc, ← hs] at d
      exact ⟨p, .inr ⟨start, 1, data, (Option.some.inj ht).symm, .inl ⟨_, _, _, d⟩⟩⟩
    | writesMultiple start n data p d fc hs hn hd =>
      rw [requestFields_of_writeMultiple fc, ← hs] at d
      exact ⟨p, .inr ⟨start, _, data, (Option.some.inj ht).symm, .inr ⟨_, _, _, _, d⟩⟩⟩

end Sys2Proof.Machine

/-! PROOFS. What a step runs (10_state R31, 30_encoding R110, R111; 70_reset_and_hazards R340 to R353):
the instruction in flight, the operation issued, a refusal, a reset, or nothing. -/

namespace Sys2Proof.Machine

theorem step_of_current {s u : State} {i : Instr} (g : GoesOnFrom s u) (p : s.phase ≠ .idle)
    (n : u.current = some i) : step s = exec i u := by
  have hgo : u.goOn = .run i u := by
    rw [State.goOn, if_neg (by rw [g.phase]; exact p), n]
  cases g with
  | alone h => simp [step, State.nextAction, h, hgo, Action.outcome]
  | quiet l e => simp [step, State.nextAction, e, hgo, Action.outcome]
  | answer a l e p => simp [step, State.nextAction, e, State.answeredBy, p, hgo, Action.outcome]

theorem current_of_decode {s : State} {i : Instr} (p : s.phase = .dispatch ∨ s.phase = .capIO)
    (d : decodeRequest s.inp = .ok i) : s.current = some i := by
  rcases p with p | p <;> simp [State.current, p, d, Except.toOption]

theorem current_of_emit {s : State} (p : s.phase = .emit) : s.current = emitInstr s.inp s.pending := by
  simp [State.current, p]

/-- The instruction depends on PHASE, IN and the outcome that waits. -/
theorem GoesOnFrom.current {s u : State} (g : GoesOnFrom s u) : u.current = s.current := by
  cases g <;> rfl

/-- Settles O43: in each phase `State.current` is the instruction named. -/
theorem stepRunsTheDecodedInstruction : Obligations.StepRunsTheDecodedInstruction := by
  intro s i hi
  obtain ⟨p, n⟩ : s.phase ≠ .idle ∧ s.current = some i := by
    rcases hi with ⟨p, rfl⟩ | ⟨p, d⟩ | ⟨p, a, fc, code, hp, rfl⟩ | ⟨p, hp, rfl⟩ | ⟨p, hp, d⟩
    · exact ⟨by simp [p], by simp [State.current, p]⟩
    · exact ⟨by rcases p with p | p <;> simp [p], current_of_decode p d⟩
    · exact ⟨by simp [p], by rw [current_of_emit p, hp]; rfl⟩
    · refine ⟨by simp [p], ?_⟩
      rcases hp with ⟨R, hp⟩ | ⟨w, hp⟩ <;> rw [current_of_emit p, hp] <;> rfl
    · simp only [decode] at d
      exact ⟨by simp [p], by rw [current_of_emit p, hp]; simp [emitInstr, d]⟩
  have hstep : ∀ {u}, GoesOnFrom s u → step s = exec i u :=
    fun g => step_of_current g p (g.current.trans n)
  exact ⟨fun h => hstep (.alone h), fun l e => hstep (.quiet l e), fun a l pc e => hstep (.answer a l e pc)⟩

theorem step_of_idle_quiet {s : State} {l : List HostEvent} (p : s.phase = .idle) (e : s.host = .quiet :: l) :
    step s = .next (s.withHost l) := by
  simp [step, State.nextAction, e, State.goOn, p, Action.outcome]

theorem step_of_unasked_answer {s : State} {a : CapAnswer} {l : List HostEvent} (p : s.phase ≠ .capIO)
    (e : s.host = .answer a :: l) : step s = .next (s.withHost l) := by
  simp [step, State.nextAction, e, State.answeredBy, p, Action.outcome]

/-- Settles O44: an answer in IDLE is one that no call awaits. -/
theorem idleWaitsForTheHost : Obligations.IdleWaitsForTheHost := by
  intro s p
  refine ⟨fun e => ?_, fun l => step_of_idle_quiet p, fun a l => step_of_unasked_answer (by simp [p])⟩
  simp [step, State.nextAction, e, State.goOn, p, Action.outcome]

theorem step_of_reset {s : State} {l : List HostEvent} (e : s.host = .reset :: l) :
    step s = .next (s.withHost l).reboot := by
  simp [step, State.nextAction, e, Action.outcome]

/-- Settles O37: a reset is taken in every phase alike. -/
theorem resetAbandonsTheOperation : Obligations.ResetAbandonsTheOperation :=
  fun _ _ e => ⟨_, step_of_reset e, rfl, rfl, rfl, rfl, rfl, rfl, rfl⟩

/-- Settles O36, by the reset state as written. -/
theorem resetIsIdleWithNoResult : Obligations.ResetIsIdleWithNoResult :=
  ⟨rfl, rfl, rfl, rfl, rfl, rfl, rfl⟩

theorem step_of_issue {s : State} {c : Command} {l : List HostEvent} (e : s.host = .issue c :: l) :
    step s = ((s.withHost l).issued c).outcome := by
  simp [step, State.nextAction, e]

/-- Settles O39: busy is the first check of an issue. -/
theorem busyIssueIsRefused : Obligations.BusyIssueIsRefused := by
  intro s c l p e
  have hp : (s.withHost l).phase ≠ .idle := p
  rw [step_of_issue e, State.issued, if_pos hp]
  rfl

theorem step_of_reserved {s : State} {c : Command} {l : List HostEvent} (p : s.phase = .idle)
    (e : s.host = .issue c :: l) (o : decodeOp c.op = .reservedOp c.op) :
    step s = .next (s.withHost l).refuse := by
  rw [step_of_issue e, State.issued, if_neg (by simp [p]), o]
  rfl

theorem step_of_unfit {s : State} {c : Command} {l : List HostEvent} (p : s.phase = .idle)
    (e : s.host = .issue c :: l) (w : c.accepted s.params = false) :
    step s = .next (s.withHost l).refuse := by
  rw [step_of_issue e, State.issued, if_neg (by simp [p])]
  cases o : decodeOp c.op <;> simp [w, Action.outcome, exec, execReservedOp]

theorem step_of_accepted {s : State} {c : Command} {l : List HostEvent} (p : s.phase = .idle)
    (e : s.host = .issue c :: l) (w : c.accepted s.params = true)
    (o : ∀ op, decodeOp c.op ≠ .reservedOp op) :
    step s = (((s.withHost l).accept c).start (decodeOp c.op)).outcome := by
  rw [step_of_issue e, State.issued, if_neg (by simp [p])]
  cases h : decodeOp c.op <;> simp [w]
  exact absurd h (o _)

theorem reservedSelector_iff (op : Byte) : reservedSelector op = true ↔ op = 0x00#8 ∨ 0x0C ≤ op.toNat := by
  simp only [reservedSelector, Bool.or_eq_true, decide_eq_true_eq]
  rw [← BitVec.toNat_inj]
  rfl

theorem decodeOp_ne_reservedOp {op : Byte} (h : ¬ (op = 0x00#8 ∨ 0x0C ≤ op.toNat)) (x : Byte) :
    decodeOp op ≠ .reservedOp x :=
  fun e => h (decodeOp_reserved e).2

/-- Settles O38: the reserved selectors decode to RESERVED_OP, and are run as they stand. -/
theorem reservedSelectorIsRefused : Obligations.ReservedSelectorIsRefused :=
  ⟨fun _ _ => rfl, fun _ _ _ p e h =>
    step_of_reserved p e (decodeOp_of_reserved ((reservedSelector_iff _).mpr h))⟩

end Sys2Proof.Machine

/-! PROOFS. The response decoder (44_response_decoder): the record of each frame (R252 to R258), of each
response row, and of a validated response (R250, R251). -/

namespace Sys2Proof.Machine

theorem bit7_iff (fc : Byte) : bit7 fc = true ↔ 0x80 ≤ fc.toNat := by
  have h : bit7 fc = decide (0x80 ≤ fc.toNat) := BitVec.msb_eq_decide fc
  rw [h, decide_eq_true_iff]

section Arms

variable (o : ByteOrder) {F : List Byte}

theorem decodeFields_of_short (h : F.length < 2) : decodeFields o F = .malformed := by
  simp [decodeFields, h]

theorem decodeFields_of_read (h2 : 2 ≤ F.length) (h : byteAt F 1 = 0x03#8 ∨ byteAt F 1 = 0x04#8) :
    decodeFields o F = decodeRead o F := by
  rcases h with h | h <;> simp [decodeFields, h, Nat.not_lt.mpr h2]

theorem decodeFields_of_writeSingle (h2 : 2 ≤ F.length) (h : byteAt F 1 = 0x06#8) :
    decodeFields o F = decodeWriteSingle o F := by
  simp [decodeFields, h, Nat.not_lt.mpr h2]

theorem decodeFields_of_writeMultiple (h2 : 2 ≤ F.length) (h : byteAt F 1 = 0x10#8) :
    decodeFields o F = decodeWriteMultiple F := by
  simp [decodeFields, h, Nat.not_lt.mpr h2]

theorem decodeFields_of_bit7 (h2 : 2 ≤ F.length) (h : bit7 (byteAt F 1) = true) :
    decodeFields o F = decodeError F := by
  have hk := not_known_of_bit7 h
  simp only [KnownRequestFc, not_or] at hk
  simp [decodeFields, h, Nat.not_lt.mpr h2, hk]

theorem decodeFields_of_unrecognized (h2 : 2 ≤ F.length) (h : bit7 (byteAt F 1) = false)
    (hk : ¬ KnownRequestFc F) : decodeFields o F = .unrecognized (byteAt F 0) (byteAt F 1) := by
  simp only [KnownRequestFc, not_or] at hk
  simp [decodeFields, h, Nat.not_lt.mpr h2, hk]

theorem decodeRead_of_long (h : 3 + (byteAt F 2).toNat ≤ F.length) :
    decodeRead o F = .read (byteAt F 0) (byteAt F 1) (byteAt F 2)
      (decodeValues o (slice F 3 (3 + (byteAt F 2).toNat))) := by
  have h3 : ¬ F.length < 3 := by omega
  simp [decodeRead, h3, Nat.not_lt.mpr h]

theorem decodeWriteSingle_of_long (h : 6 ≤ F.length) :
    decodeWriteSingle o F = .writeSingle (byteAt F 0) 0x06#8 (be16 (byteAt F 2) (byteAt F 3))
      (decodeValue o (byteAt F 4) (byteAt F 5)) := by
  simp [decodeWriteSingle, Nat.not_lt.mpr h]

theorem decodeWriteMultiple_of_long (h : 6 ≤ F.length) :
    decodeWriteMultiple F = .writeMultiple (byteAt F 0) 0x10#8 (be16 (byteAt F 2) (byteAt F 3))
      (be16 (byteAt F 4) (byteAt F 5)) := by
  simp [decodeWriteMultiple, Nat.not_lt.mpr h]

theorem decodeError_of_long (h : 3 ≤ F.length) :
    decodeError F = errorRecord (byteAt F 0) (byteAt F 1) (byteAt F 2) := by
  simp [decodeError, Nat.not_lt.mpr h]

end Arms

/-- What a response that decodes is, by its byte 1. -/
theorem decodeResponse_ok {F : List Byte} {i : Instr} (h : decodeResponse F = .ok i) :
    2 ≤ F.length ∧
    (((byteAt F 1 = 0x03#8 ∨ byteAt F 1 = 0x04#8) ∧ 3 + (byteAt F 2).toNat ≤ F.length
      ∧ i = .rspRead (byteAt F 0) (byteAt F 1) (byteAt F 2) (slice F 3 (3 + (byteAt F 2).toNat)))
    ∨ (byteAt F 1 = 0x06#8 ∧ 6 ≤ F.length
      ∧ i = .rspWriteSingle (byteAt F 0) (be16 (byteAt F 2) (byteAt F 3)) (byteAt F 4) (byteAt F 5))
    ∨ (byteAt F 1 = 0x10#8 ∧ 6 ≤ F.length
      ∧ i = .rspWriteMultiple (byteAt F 0) (be16 (byteAt F 2) (byteAt F 3)) (be16 (byteAt F 4) (byteAt F 5)))
    ∨ (bit7 (byteAt F 1) = true ∧ 3 ≤ F.length ∧ i = errorRow (byteAt F 0) (byteAt F 1) (byteAt F 2))
    ∨ (bit7 (byteAt F 1) = false ∧ ¬ KnownRequestFc F ∧ i = .rspUnrecognized (byteAt F 0) (byteAt F 1))) := by
  simp only [decodeResponse] at h
  split_ifs at h with h2 h34 h3 hd h6 hl h10 hl h7 hl
  all_goals
    injection h with h
    subst h
    simp only [Bool.or_eq_true, beq_iff_eq] at h34
    refine ⟨by omega, ?_⟩
  · exact .inl ⟨h34, by omega, rfl⟩
  · exact .inr (.inl ⟨by simpa using h6, by omega, rfl⟩)
  · exact .inr (.inr (.inl ⟨by simpa using h10, by omega, rfl⟩))
  · exact .inr (.inr (.inr (.inl ⟨h7, by omega, rfl⟩)))
  · simp only [beq_iff_eq] at h6 h10
    refine .inr (.inr (.inr (.inr ⟨by simpa using h7, ?_, rfl⟩)))
    simp only [KnownRequestFc]
    tauto

theorem exec_errorRow (a fc code : Byte) (s : State) :
    exec (errorRow a fc code) s = emitRecord (.fields (errorRecord a fc code)) s := by
  unfold errorRow
  split_ifs with h83 h84 h86 h90
  · rw [beq_iff_eq.mp h83]; rfl
  · rw [beq_iff_eq.mp h84]; rfl
  · rw [beq_iff_eq.mp h86]; rfl
  · rw [beq_iff_eq.mp h90]; rfl
  · rfl

/-- The record of a response row is the one that the decoder's arm for its frame gives. -/
theorem exec_responseRow {F : List Byte} {i : Instr} (d : decodeResponse F = .ok i) (s : State) :
    exec i s = emitRecord (.fields (decodeFields s.cfgOrder F)) s := by
  obtain ⟨h2, ⟨fc, hl, rfl⟩ | ⟨fc, hl, rfl⟩ | ⟨fc, hl, rfl⟩ | ⟨h7, hl, rfl⟩ | ⟨h7, hk, rfl⟩⟩ :=
    decodeResponse_ok d
  · rw [decodeFields_of_read _ h2 fc, decodeRead_of_long _ hl]; rfl
  · rw [decodeFields_of_writeSingle _ h2 fc, decodeWriteSingle_of_long _ hl]; rfl
  · rw [decodeFields_of_writeMultiple _ h2 fc, decodeWriteMultiple_of_long hl]; rfl
  · rw [decodeFields_of_bit7 _ h2 h7, decodeError_of_long hl]; exact exec_errorRow _ _ _ s
  · rw [decodeFields_of_unrecognized _ h2 h7 hk]; rfl

/-- Settles O5, by `exec_responseRow`; DFLD is that arm itself. -/
theorem responseRowRunsAsDfld : Obligations.ResponseRowRunsAsDfld := fun s _ d => exec_responseRow d s

/-- DFLD's passage through EMIT is inside one step: the row's record ends it as DFLD ends it. -/
theorem start_outcome (v : State) (i : Instr) : (v.start i).outcome = exec i v := by
  unfold State.start
  split_ifs with hi
  · subst hi
    cases d : decodeResponse v.inp with
    | error e => rfl
    | ok row => exact exec_responseRow d { v with phase := .emit, pending := some .decode }
  · rfl

/-- Settles O42: an accepted operation starts, and `start_outcome` covers DFLD. -/
theorem stepRunsTheIssuedOperation : Obligations.StepRunsTheIssuedOperation :=
  fun _ _ _ p e w h => (step_of_accepted p e w (decodeOp_ne_reservedOp h)).trans (start_outcome _ _)

/-- Settles O33: each row is `emitRecord` of its fields. -/
theorem responseRowsRecord : Obligations.ResponseRowsRecord := by
  intro addr fc code bc v0 v1 word count data s
  exact ⟨rfl, rfl, rfl, rfl, rfl, rfl, rfl, rfl, rfl⟩

/-- Settles O34: the other codes are none of the listed ones. -/
theorem errorMessages : Obligations.ErrorMessages := by
  refine ⟨rfl, rfl, rfl, rfl, rfl, rfl, rfl, ?_⟩
  rintro code (rfl | rfl | h)
  · rfl
  · rfl
  · have hne : ∀ n : Nat, n < 9 → code ≠ BitVec.ofNat 8 n := by
      rintro n hn rfl
      simp at h
      omega
    simp [messageOf, hne]

theorem byteAt_slice (F : List Byte) {a b i : Nat} (h : a + i < b) :
    byteAt (slice F a b) i = byteAt F (a + i) := by
  simp [byteAt, slice, List.getD_eq_getElem?_getD, List.getElem?_drop, h]

/-- The values of a data region by number, an odd last byte left out (R253). -/
theorem decodeValues_eq_map (o : ByteOrder) (D : List Byte) :
    decodeValues o D = (List.range (D.length / 2)).map
      (fun k => decodeValue o (byteAt D (2 * k)) (byteAt D (2 * k + 1))) := by
  induction D using decodeValues.induct with
  | case1 x y rest ih =>
    rw [decodeValues, ih, show (x :: y :: rest).length / 2 = rest.length / 2 + 1 by simp; omega,
      List.range_succ_eq_map]
    simp [Nat.mul_succ]
  | case2 D hD =>
    obtain ⟨hl, hv⟩ : D.length / 2 = 0 ∧ decodeValues o D = [] := by
      match D, hD with
      | [], _ => exact ⟨rfl, rfl⟩
      | [_], _ => exact ⟨by simp, rfl⟩
      | x :: y :: rest, hD => exact (hD x y rest rfl).elim
    rw [hl, hv]
    rfl

/-- Settles O32, by the arm of each function code. -/
theorem fieldsAreDecoded : Obligations.FieldsAreDecoded := by
  refine ⟨fun s => rfl, fun o F => ?_⟩
  intro a fc value
  have hvalue : ∀ k, decodeValue o (byteAt F k) (byteAt F (k + 1)) = value k := fun k => by cases o <;> rfl
  refine ⟨decodeFields_of_short o, ?read, ?single, ?multiple, ?error, ?other⟩
  case read =>
    intro h2 hfc
    rw [decodeFields_of_read o h2 hfc]
    refine ⟨fun h => ?_, fun _ h => ?_⟩
    · rcases h with h | h <;> simp [decodeRead, h]
    · rw [decodeRead_of_long o h, decodeValues_eq_map, slice_length h, Nat.add_sub_cancel_left]
      refine congrArg (Record.read a fc (byteAt F 2)) (List.map_congr_left fun k hk => ?_)
      have hk' : k < (byteAt F 2).toNat / 2 := List.mem_range.mp hk
      rw [byteAt_slice F (by omega), byteAt_slice F (by omega), ← Nat.add_assoc, hvalue]
  case single =>
    intro h2 hfc
    rw [decodeFields_of_writeSingle o h2 hfc]
    exact ⟨fun h => by simp [decodeWriteSingle, h],
      fun h => (decodeWriteSingle_of_long o h).trans (congrArg _ (hvalue 4))⟩
  case multiple =>
    intro h2 hfc
    rw [decodeFields_of_writeMultiple o h2 hfc]
    exact ⟨fun h => by simp [decodeWriteMultiple, h], decodeWriteMultiple_of_long⟩
  case error =>
    intro h2 hfc
    rw [decodeFields_of_bit7 o h2 ((bit7_iff fc).mpr hfc)]
    exact ⟨fun h => by simp [decodeError, h], decodeError_of_long⟩
  case other =>
    intro h2 hfc h3 h4 h6 h10
    have h7 : bit7 fc = false := by
      rw [← Bool.not_eq_true, bit7_iff]
      omega
    exact decodeFields_of_unrecognized o h2 h7 (not_or.mpr ⟨h3, not_or.mpr ⟨h4, not_or.mpr ⟨h6, h10⟩⟩⟩)

/-- A response of a fitting length holds every field of its arm. -/
theorem decodeFields_of_shaped (o : ByteOrder) {F : List Byte} (h : ResponseShaped F) :
    decodeFields o F ≠ .malformed ∧ ∀ x y, decodeFields o F ≠ .unrecognized x y := by
  rcases h with ⟨h, h3, hl⟩ | ⟨h | h, hl⟩ | ⟨h, hl⟩
  · rw [decodeFields_of_read o (by omega) h, decodeRead_of_long o (by omega)]
    simp
  · rw [decodeFields_of_writeSingle o (by omega) h, decodeWriteSingle_of_long o (by omega)]
    simp
  · rw [decodeFields_of_writeMultiple o (by omega) h, decodeWriteMultiple_of_long (by omega)]
    simp
  · have h7 : bit7 (byteAt F 1) = true := by rcases h with h | h | h | h <;> rw [h] <;> rfl
    rw [decodeFields_of_bit7 o (by omega) h7, decodeError_of_long (by omega)]
    simp [errorRecord]

/-- Settles O31: DRSP's three answers, in the order of the checks. -/
theorem responseIsValidatedThenDecoded : Obligations.ResponseIsValidatedThenDecoded := by
  intro s
  obtain ⟨-, -, -, hvalid, -⟩ := validateResponse_iff s.inp
  refine ⟨fun r hv => ?_, fun hv hc => ⟨crc (covered s.inp), ?_⟩,
    fun hv hc => ⟨⟨crc (covered s.inp), ?_⟩, ?_⟩⟩
  · simp only [Records, exec, execDrsp, hv]; rfl
  · simp only [Records, exec, execDrsp, hv, hc]; rfl
  · simp only [Records, exec, execDrsp, hv, hc]; rfl
  · exact decodeFields_of_shaped s.cfgOrder (hvalid.mp hv).2

end Sys2Proof.Machine

/-! PROOFS. What can stop the engine, and what makes it wait (60_exceptions R305, R331;
70_reset_and_hazards R353). -/

namespace Sys2Proof.Machine

/-- From the invariant an operation in flight is at an instruction. -/
theorem State.Inv.current {s : State} (h : s.Inv) (p : s.phase ≠ .idle) : ∃ i, s.current = some i := by
  cases ph : s.phase with
  | idle => exact absurd ph p
  | validate => exact ⟨.proc, by simp [State.current, ph]⟩
  | dispatch =>
    obtain ⟨⟨i, d⟩, -⟩ := h.request_latched (.inl ph)
    exact ⟨i, current_of_decode (.inl ph) d⟩
  | capIO =>
    obtain ⟨⟨i, d⟩, -⟩ := h.request_latched (.inr ph)
    exact ⟨i, current_of_decode (.inr ph) d⟩
  | emit =>
    obtain ⟨o, ho⟩ := Option.isSome_iff_exists.mp (h.pending_in_emit.mp ph)
    rw [current_of_emit ph, ho]
    cases o with
    | decode => exact absurd ho h.no_decode_left
    | _ => exact ⟨_, rfl⟩

/-- In CAP_IO a call of the request in IN is in flight: a read of L_COUNT registers, or a write. -/
theorem State.Inv.call {s : State} (h : s.Inv) (p : s.phase = .capIO) :
    (∃ base offset, s.capReq = some (.read base offset s.lCount)
      ∧ (byteAt s.inp 1 = 0x03#8 ∨ byteAt s.inp 1 = 0x04#8))
    ∨ (∃ base offset count bytes, s.capReq = some (.write base offset count bytes)
      ∧ (byteAt s.inp 1 = 0x06#8 ∨ byteAt s.inp 1 = 0x10#8)) := by
  obtain ⟨r, hr⟩ := Option.isSome_iff_exists.mp (h.call_in_capIO.mp p)
  obtain ⟨-, -, hfc, -⟩ := h.request_latched (.inr p)
  have hc := h.call_of_request r hr
  cases r with
  | read base offset count =>
    obtain ⟨-, -, rfl, fc, -, -⟩ := hc
    exact .inl ⟨base, offset, hr, hfc ▸ fc⟩
  | write base offset count bytes =>
    obtain ⟨-, -, -, -, fc⟩ := hc
    exact .inr ⟨base, offset, count, bytes, hr, hfc ▸ fc.imp And.left And.left⟩

theorem State.Inv.known {s : State} (h : s.Inv) (p : s.phase = .capIO) : KnownRequestFc s.inp := by
  rcases h.call p with ⟨-, -, -, fc | fc⟩ | ⟨-, -, -, -, -, fc | fc⟩ <;> simp [KnownRequestFc, fc]

/-- With no answer a call waits. -/
theorem exec_of_waiting {u : State} {i : Instr} (p : u.phase = .capIO) (d : decodeRequest u.inp = .ok i)
    (ans : u.capAns = none) (fc : KnownRequestFc u.inp) : exec i u = .next u := by
  rcases capIO_exec p d with ⟨-, e⟩ | ⟨-, e⟩ | ⟨hfc, -⟩
  · simp [e, readResume, ans]
  · simp [e, writeResume, ans]
  · rw [knownRequestFc_iff, hfc] at fc
    cases fc

/-- One step of a call that has not returned. -/
theorem step_of_waiting {s u : State} (h : s.Inv) (p : s.phase = .capIO) (g : GoesOnFrom s u)
    (ans : u.capAns = none) : step s = .next u := by
  obtain ⟨⟨i, d⟩, -⟩ := h.request_latched (.inr p)
  have fc := h.known p
  rw [step_of_current g (by simp [p]) (g.current.trans (current_of_decode (.inr p) d))]
  rw [← g.regs] at d fc
  exact exec_of_waiting (g.phase.trans p) d ans fc

theorem run_succ_of_step {s t : State} (n : Nat) (h : step s = .next t) :
    Host.Core.run Sys2Proof.core (n + 1) s
      = (Host.Core.run Sys2Proof.core n t : Host.Outcome State Fault Refusal) := by
  have hc : Sys2Proof.core.step s = .next t := h
  refine (Host.Core.run.eq_2 Sys2Proof.core s n).trans ?_
  rw [hc]

/-- Settles O23, by induction on the number of steps: the invariant and the phase are kept. -/
theorem blockedCallWaits : Obligations.BlockedCallWaits := by
  intro n
  induction n with
  | zero =>
    intro s h p
    refine ⟨fun l e => ?_, fun _ => rfl⟩
    rw [List.replicate_zero, List.nil_append] at e
    rw [← e]
    rfl
  | succ n ih =>
    intro s h p
    refine ⟨fun l e => ?_, fun e => ?_⟩
    · rw [List.replicate_succ, List.cons_append] at e
      rw [run_succ_of_step n (step_of_waiting h p (.quiet _ e) h.no_answer_left)]
      have hinv : (s.withHost (List.replicate n .quiet ++ l)).Inv :=
        h.of_same rfl rfl rfl h.no_answer_left rfl rfl (.inl rfl)
      exact (ih _ hinv p).1 l rfl
    · rw [run_succ_of_step n (step_of_waiting h p (.alone e) h.no_answer_left)]
      exact (ih s h p).2 e

/-- A read asks for L_COUNT registers, so its answer breaks the contract of the call in flight with code 0
and other than twice as many bytes. -/
theorem State.Inv.breaksContract_iff {s : State} (h : s.Inv) (p : s.phase = .capIO) (a : CapAnswer) :
    BreaksContract s a ↔ 256 ≤ a.code ∨ ((byteAt s.inp 1 = 0x03#8 ∨ byteAt s.inp 1 = 0x04#8) ∧ a.code = 0
      ∧ a.bytes.length ≠ 2 * s.lCount.toNat) := by
  rcases h.call p with ⟨base, offset, hr, fc⟩ | ⟨base, offset, count, bytes, hr, fc⟩
  · simp [BreaksContract, hr, fc]
  · have hfc : ¬ (byteAt s.inp 1 = 0x03#8 ∨ byteAt s.inp 1 = 0x04#8) := by
      rcases fc with fc | fc <;> simp [fc]
    simp [BreaksContract, hr, hfc]

/-- From the invariant the instruction in flight goes on, unless the answer breaks its contract. -/
theorem InFlight.goes_or_faults {s u : State} {r : Result} (h : s.Inv) (g : GoesOnFrom s u) (f : InFlight u r) :
    (∃ t, r = .next t)
    ∨ (r = .fault .capabilityContract ∧ s.phase = .capIO
      ∧ ∃ a l, s.host = .answer a :: l ∧ BreaksContract s a) := by
  cases f with
  | faults a p ans hb =>
    rw [g.phase] at p
    rcases g.eq with ⟨l, rfl⟩ | ⟨l, a', e, -, rfl⟩
    · cases h.no_answer_left.symm.trans ans
    · obtain rfl : a' = a := Option.some.inj ans
      exact .inr ⟨rfl, p, a', l, e, (h.breaksContract_iff p a').mpr hb⟩
  | lost p fc =>
    have hk := h.known (g.phase ▸ p)
    rw [← g.regs, knownRequestFc_iff, fc] at hk
    cases hk
  | _ => exact .inl ⟨_, rfl⟩

/-- The row in CAP_IO faults on an answer that breaks its contract. -/
theorem exec_of_broken {u : State} {i : Instr} {a : CapAnswer} (p : u.phase = .capIO)
    (d : decodeRequest u.inp = .ok i) (ans : u.capAns = some a) (fc : KnownRequestFc u.inp)
    (hb : 256 ≤ a.code ∨ ((byteAt u.inp 1 = 0x03#8 ∨ byteAt u.inp 1 = 0x04#8) ∧ a.code = 0
        ∧ a.bytes.length ≠ 2 * u.lCount.toNat)) : exec i u = .fault .capabilityContract := by
  rcases capIO_exec p d with ⟨-, e⟩ | ⟨hfc, e⟩ | ⟨hfc, -⟩
  · rw [e]
    exact readResume_of_broken ans ((a.breaksReadContract_iff _).mpr (hb.imp_right And.right))
  · have hw : 256 ≤ a.code := hb.resolve_right fun hr => by
      rcases hfc with hfc | hfc <;> simp [hfc] at hr
    rw [e]
    exact writeResume_of_broken ans hw
  · rw [knownRequestFc_iff, hfc] at fc
    cases fc

/-- Settles O47: what is in flight is `InFlight.goes_or_faults`, and the converse `exec_of_broken`. -/
theorem onlyABrokenContractStops : Obligations.OnlyABrokenContractStops := by
  intro s h
  refine ⟨?_, fun a l p e hb => ?_⟩
  · have hs := step_is s
    generalize step s = r at hs ⊢
    cases hs with
    | operates c l e p w o i u x =>
      obtain ⟨t, ht, -⟩ := operation_ends x o
      exact .inl ⟨t, ht⟩
    | stops u g p n =>
      obtain ⟨i, hi⟩ := h.current p
      cases (g.current.trans hi).symm.trans n
    | runs u i g p n => exact (current_is n).goes_or_faults h g
    | _ => exact .inl ⟨_, rfl⟩
  · obtain ⟨⟨i, d⟩, -⟩ := h.request_latched (.inr p)
    rw [step_of_current (.answer a l e p) (by simp [p]) (current_of_decode (.inr p) d)]
    exact exec_of_broken p d rfl (h.known p) ((h.breaksContract_iff p a).mp hb)

end Sys2Proof.Machine

/-! PROOFS. The master's frame builders (43_master_builder): what they emit (R221 to R227), and what the
validator and the decoders make of it (R225, 30_encoding R92, R93). -/

namespace Sys2Proof.Machine

theorem emits_emitFrame (B : List Byte) (s : State) : Emits B s (emitFrame B s) := by
  rw [emitFrame_eq, sealed_length]
  constructor <;> intro h <;> rw [h] <;> rfl

/-- Settles O24: both builders are `emitFrame`. -/
theorem readBuildersBuild : Obligations.ReadBuildersBuild :=
  fun s => ⟨emits_emitFrame _ s, emits_emitFrame _ s⟩

theorem encodeValue_eq (o : ByteOrder) (v : Half) :
    encodeValue o v = match o with
      | .lowHigh => [lo8 v, hi8 v]
      | .highLow => [hi8 v, lo8 v] := by
  cases o <;> rfl

theorem wsBuildByte_eq (p : WsBuildFc) :
    wsBuildByte p = match p with
      | .fc10 => 0x10#8
      | .fc06 => 0x06#8 := by
  cases p <;> rfl

/-- Settles O25: BWSR is `emitFrame`, with the two choices of its bytes written out. -/
theorem writeSingleBuilderBuilds : Obligations.WriteSingleBuilderBuilds := by
  intro s
  have h := emits_emitFrame (writeSingleBytes s.params.wsBuildFc s.cfgOrder s.bAddr s.bStart s.bValue) s
  rw [writeSingleBytes, encodeValue_eq, wsBuildByte_eq] at h
  exact h

theorem bwmrPrecondition_iff (bc : Byte) (values : List Half) :
    bwmrPrecondition bc values = true ↔ bc.toNat % 2 = 0 ∧ values.length = bc.toNat / 2 := by
  simp [bwmrPrecondition]

/-- Settles O26: what BWMR does turns on its precondition. -/
theorem writeMultipleBuilderBuilds : Obligations.WriteMultipleBuilderBuilds := by
  intro s
  refine ⟨fun heven hlen => ?_, fun h => ?_⟩
  · have hpre := (bwmrPrecondition_iff s.bBc s.bValues).mpr ⟨heven, hlen⟩
    have h := emits_emitFrame
      (writeMultipleBytes s.cfgOrder s.bAddr s.bStart s.bCount s.bBc s.bValues) s
    simp only [writeMultipleBytes, encodeValues, funext (encodeValue_eq s.cfgOrder)] at h
    simp only [exec, execBwmr, hpre, if_true]
    exact h
  · have hpre : bwmrPrecondition s.bBc s.bValues = false := by
      rw [← Bool.not_eq_true, bwmrPrecondition_iff]
      omega
    simp only [exec, execBwmr, hpre]
    rfl

theorem validateRequest_sealed {B : List Byte} (h : RequestShaped (sealed B)) :
    validateRequest (sealed B) = .valid := by
  rw [validateRequest_of_shaped h, crcOk_sealed, if_pos rfl]

theorem writeSingleBytes_length (p : WsBuildFc) (o : ByteOrder) (a : Byte) (reg value : Half) :
    (writeSingleBytes p o a reg value).length = 6 := by
  cases o <;> rfl

theorem requestShaped_writeSingle (o : ByteOrder) (a : Byte) (reg value : Half) :
    RequestShaped (sealed (writeSingleBytes .fc06 o a reg value)) :=
  .inl ⟨.inr (.inr rfl), by rw [sealed_length, writeSingleBytes_length]⟩

/-- Within BWMR's precondition the byte count is that of the values' bytes. -/
theorem encodeValues_length_of_precondition {o : ByteOrder} {bc : Byte} {values : List Half}
    (h : bwmrPrecondition bc values = true) : (encodeValues o values).length = bc.toNat := by
  obtain ⟨heven, hlen⟩ := (bwmrPrecondition_iff bc values).mp h
  rw [encodeValues_length]
  omega

theorem requestShaped_writeMultiple (o : ByteOrder) (a : Byte) (start count : Half) {bc : Byte}
    {values : List Half} (h : bwmrPrecondition bc values = true) :
    RequestShaped (sealed (writeMultipleBytes o a start count bc values)) := by
  have hlen : (sealed (writeMultipleBytes o a start count bc values)).length = 9 + bc.toNat := by
    rw [sealed_length, writeMultipleBytes, List.length_append, encodeValues_length_of_precondition h]
    simp
    omega
  exact .inr ⟨rfl, by omega, hlen⟩

/-- A write-single under function code 0x10 is too short for a write-multiple. -/
theorem validateRequest_writeSingle_fc10 (o : ByteOrder) (a : Byte) (reg value : Half) :
    validateRequest (sealed (writeSingleBytes .fc10 o a reg value)) = .invalid .length := by
  have hl : (sealed (writeSingleBytes .fc10 o a reg value)).length = 8 := by
    rw [sealed_length, writeSingleBytes_length]
  have hfc : byteAt (sealed (writeSingleBytes .fc10 o a reg value)) 1 = 0x10#8 := rfl
  refine validateRequest_of_fault (requestLengthFault_of_misshapen (by omega) (.inr (.inr (.inr hfc))) ?_)
  simp [RequestShaped, hfc, hl]

/-- Settles O27: a built frame carries its checksum, so its length alone decides. -/
theorem builtFramesValidate : Obligations.BuiltFramesValidate := by
  refine ⟨fun fc a start count hfc => ?_, fun o a reg value => ?_, fun o a start count bc values h => ?_⟩
  · exact validateRequest_sealed (.inl ⟨hfc.imp_right .inl, rfl⟩)
  · exact ⟨validateRequest_sealed (requestShaped_writeSingle o a reg value),
      validateRequest_writeSingle_fc10 o a reg value⟩
  · exact validateRequest_sealed (requestShaped_writeMultiple o a start count h)

/-- Settles O29: the frame written out, byte by byte. -/
theorem orderTouchesValueAndChecksumOnly : Obligations.OrderTouchesValueAndChecksumOnly :=
  fun _ _ _ _ => ⟨rfl, rfl, rfl, rfl, rfl⟩

theorem decodeFields_writeSingle (o : ByteOrder) (a : Byte) (reg value : Half) :
    decodeFields o (sealed (writeSingleBytes .fc06 o a reg value)) = .writeSingle a 0x06#8 reg value := by
  have hl : (sealed (writeSingleBytes .fc06 o a reg value)).length = 8 := by
    rw [sealed_length, writeSingleBytes_length]
  rw [decodeFields_of_writeSingle o (by omega) rfl, decodeWriteSingle_of_long o (by omega)]
  cases o <;> simp [writeSingleBytes, sealed, encodeValue, decodeValue]

/-- Settles O28: 8 bytes under function code 0x06 fit the request and the response alike. -/
theorem writeSingleRoundTrip : Obligations.WriteSingleRoundTrip := by
  intro o a reg value F
  have hl : F.length = 8 := by rw [sealed_length, writeSingleBytes_length]
  have htake : F.take 6 = writeSingleBytes .fc06 o a reg value :=
    Eq.trans (by rw [covered, hl]) (covered_sealed _)
  have hresponse : ResponseShaped F := .inr (.inl ⟨.inl rfl, hl⟩)
  refine ⟨validateRequest_sealed (requestShaped_writeSingle o a reg value), ?_, crcOk_sealed _,
    decodeFields_writeSingle o a reg value, by rw [htake]⟩
  exact validateResponse_of_shaped hresponse

theorem decodeValues_encodeValue_append (o : ByteOrder) (v : Half) (D : List Byte) :
    decodeValues o (encodeValue o v ++ D) = v :: decodeValues o D := by
  cases o <;> simp [encodeValue, decodeValues, decodeValue]

theorem decodeValues_encodeValues (o : ByteOrder) (values : List Half) :
    decodeValues o (encodeValues o values) = values := by
  induction values with
  | nil => rfl
  | cons v values ih =>
    rw [encodeValues, List.flatMap_cons, decodeValues_encodeValue_append]
    exact congrArg (v :: ·) ih

/-- Settles O30: BWMR builds the encoding of that row. -/
theorem builtWriteMultipleDecodes : Obligations.BuiltWriteMultipleDecodes :=
  fun o a start count _ values h =>
    ⟨decodeRequest_encode_reqWriteMultiple a start count (encodeValues_length_of_precondition h),
      decodeValues_encodeValues o values⟩

end Sys2Proof.Machine

/-! PROOFS. The moves of PROC and of its request rows, one by one (42_slave_processor R175 to R190). -/

namespace Sys2Proof.Machine

/-- Settles O1, by running the decoder on the nine words. -/
theorem specWordsDecode : Obligations.SpecWordsDecode :=
  ⟨rfl, rfl, rfl, rfl, by decide +kernel, by decide +kernel, by decide +kernel, by decide +kernel,
    by decide +kernel⟩

/-- Settles O8; the two checksums are computed. -/
theorem crcWritesTheChecksum : Obligations.CrcWritesTheChecksum := ⟨fun _ => rfl, rfl, by decide +kernel⟩

/-- Settles O12, by the arm of IDLE. -/
theorem procEntersValidate : Obligations.ProcEntersValidate := by
  intro s p
  simp [exec, execProc, p]

theorem accAfterCheck_of_class {cls : RequestClass} (h : cls = .valid ∨ cls = .unsupported) (F : List Byte)
    (acc : Half) : accAfterCheck cls.ranChecksum F acc = crc (covered F) := by
  rcases h with rfl | rfl <;> rfl

theorem exec_proc_of_validate {s : State} (p : s.phase = .validate) : exec .proc s = procValidate s := by
  simp [exec, execProc, p]

theorem exec_proc_of_emit {s : State} (p : s.phase = .emit) : exec .proc s = procEmit s := by
  simp [exec, execProc, p]

/-- Settles O13: the three cases of `procValidate_cases` exclude one another. -/
theorem procValidatesAndFilters : Obligations.ProcValidatesAndFilters := by
  intro s p cls addr latched
  rw [exec_proc_of_validate p]
  rcases procValidate_cases s with ⟨r, hc, e⟩ | ⟨hc, h0, hd, e⟩ | ⟨hc, ha, e⟩
  · refine ⟨fun _ => ⟨_, _, e⟩, fun h => ?_, fun h => ?_⟩ <;> rcases h with h | h <;> cases hc.symm.trans h
  · rw [accAfterCheck_of_class hc] at e
    refine ⟨?_, fun _ _ _ => ⟨_, e⟩, fun _ ha => absurd ha (not_or.mpr ⟨h0, hd⟩)⟩
    rintro ⟨r, h⟩
    rcases hc with hc | hc <;> cases hc.symm.trans h
  · rw [accAfterCheck_of_class hc] at e
    refine ⟨?_, fun _ h0 hd => absurd ha (not_or.mpr ⟨h0, hd⟩), fun _ _ => e⟩
    rintro ⟨r, h⟩
    rcases hc with hc | hc <;> cases hc.symm.trans h

/-- Settles O14, by the two arms of `procEmit`. -/
theorem procEmitsOrSuppresses : Obligations.ProcEmitsOrSuppresses := by
  intro s p
  rw [exec_proc_of_emit p]
  refine ⟨fun R hp => ?_, fun why hp => ⟨why, ?_⟩⟩
  · simp only [procEmit, hp]
    exact emits_emitFrame R s
  · simp only [procEmit, hp]
    rfl

/-- The function code of an error frame has bit 7 set already. -/
theorem exec_errorFrameEmit (a fc code : Byte) (s : State) :
    exec (.errorFrameEmit a (fc ||| 0x80#8) code) s = emitFrame [a, fc ||| 0x80#8, code] s := by
  rw [exec, execErrorFrameEmit, BitVec.or_assoc, BitVec.or_self]

/-- Settles O15: the row is `emitFrame` of its three bytes. -/
theorem errorFrameIsEmitted : Obligations.ErrorFrameIsEmitted := by
  intro a fc code s
  rw [exec_errorFrameEmit]
  exact emits_emitFrame _ s

/-- Settles O16: in DISPATCH the row raises its error. -/
theorem unsupportedIsAnsweredIllegalFunction : Obligations.UnsupportedIsAnsweredIllegalFunction :=
  fun addr fc _ s p =>
    (inDispatch_of_dispatch (raiseError addr fc 0x01#8) (fun _ => .fault .outOfSequence) p).trans
      (raiseError_eq addr fc 0x01#8 s)

/-- Settles O17: both rows are `readDispatch`, whose three cases exclude one another. -/
theorem readRequestsCheckAndCall : Obligations.ReadRequestsCheckAndCall := by
  intro i fc addr start count s p hi latched
  have e : exec i s = readDispatch addr fc start count s := by
    rcases hi with ⟨rfl, rfl⟩ | ⟨rfl, rfl⟩ <;> exact inDispatch_of_dispatch _ readResume p
  rw [e]
  rcases readDispatch_cases addr fc start count s with ⟨h, e⟩ | ⟨h, ha, e⟩ | ⟨h, ha, e⟩
  · exact ⟨fun _ => e, fun h' => absurd h (Nat.not_lt.mpr h'), fun h' => absurd h (Nat.not_lt.mpr h')⟩
  · exact ⟨fun h' => absurd h' (Nat.not_lt.mpr h), fun _ _ => ⟨_, e⟩, fun _ ha' => absurd ha ha'⟩
  · exact ⟨fun h' => absurd h' (Nat.not_lt.mpr h), fun _ ha' => absurd ha' ha, fun _ _ => e⟩

/-- Settles O18: both rows are `readResume`; the premises leave the forwarded code or the response. -/
theorem readRequestsAnswer : Obligations.ReadRequestsAnswer := by
  intro i addr start count s a p ans hcode hi
  have e : exec i s = readResume s := by
    rcases hi with rfl | rfl <;> exact inDispatch_of_capIO _ readResume p
  rw [e]
  refine ⟨fun hc => ?_, fun hc hl => ?_⟩
  · have hb : a.breaksReadContract s.lCount = false := by simp [CapAnswer.breaksReadContract, hcode, hc]
    simp [readResume, ans, hb, hc, raiseError_eq, Raises, State.conclude]
  · have hb : a.breaksReadContract s.lCount = false := by simp [CapAnswer.breaksReadContract, hc, hl]
    simp only [readResume, ans, hb, hc, orderPayload_eq]
    rfl

/-- Settles O20: the two cases of `writeMultipleDispatch_cases` exclude one another. -/
theorem writeMultipleChecksAndCalls : Obligations.WriteMultipleChecksAndCalls := by
  intro addr start rc bc data s p latched n m sent
  have e : exec (.reqWriteMultiple addr start rc bc data) s = writeMultipleDispatch addr start bc data s :=
    inDispatch_of_dispatch _ writeResume p
  have hn : wmRange s.params.wmRangeCount bc = n := by
    simp only [n]; cases s.params.wmRangeCount <;> rfl
  rw [e]
  rcases writeMultipleDispatch_cases addr start bc data s with ⟨h, e⟩ | ⟨h, e⟩ <;> rw [hn] at h
  · exact ⟨fun _ => e, fun h' => absurd h (Nat.not_lt.mpr h')⟩
  · rw [orderPayload_eq] at e
    exact ⟨fun h' => absurd h' (Nat.not_lt.mpr h), fun _ => e⟩

/-- Settles O21: both rows are `writeResume`. -/
theorem writeRequestsAnswer : Obligations.WriteRequestsAnswer := by
  intro i s a p ans hcode hi
  have e : exec i s = writeResume s := by
    rcases hi with ⟨_, _, _, _, rfl⟩ | ⟨_, _, _, _, _, rfl⟩ <;> exact inDispatch_of_capIO _ writeResume p
  have hb : a.breaksWriteContract = false := by simp [CapAnswer.breaksWriteContract, hcode]
  rw [e]
  refine ⟨fun hl => ⟨.broadcast, ?_⟩, fun hl hc => ?_, fun hl hc => ?_⟩
  · simp [writeResume, ans, hb, hl, raiseDrop_eq, Raises, State.conclude]
  · simp [writeResume, ans, hb, hl, hc, raiseError_eq, Raises, State.conclude]
  · simp [writeResume, ans, hb, hl, hc, Raises, State.conclude]

/-- Settles O55, pair by pair. -/
theorem swapPairsExchangesEachPair : Obligations.SwapPairsExchangesEachPair := by
  intro k
  induction k with
  | zero =>
    intro B _
    simp
  | succ k ih =>
    intro B hB
    match B, hB with
    | x :: y :: rest, hB =>
      obtain ⟨-, hpairs, hrest⟩ := ih rest (by simp at hB; omega)
      refine ⟨swapPairs_length _ _, fun i hi => ?_, fun j hj => ?_⟩
      · cases i with
        | zero => exact ⟨rfl, rfl⟩
        | succ i =>
          rw [swapPairs_succ, Nat.mul_succ]
          exact hpairs i (by omega)
      · obtain ⟨j, rfl⟩ : ∃ i, j = i + 2 := ⟨j - 2, by omega⟩
        exact hrest j (by omega)

end Sys2Proof.Machine

/-! PROOFS. Issuing an operation (30_encoding R110, 43_master_builder R220, 60_exceptions R304): which operands
it takes, when it is accepted, what is latched, and what the host reads of it (10_state R20). -/

namespace Sys2Proof.Machine

section Takes

variable {op : Byte}

theorem takesFrame_decodeOp (h : op = 0x01#8 ∨ op = 0x02#8 ∨ op = 0x03#8 ∨ op = 0x04#8 ∨ op = 0x09#8
    ∨ op = 0x0A#8 ∨ op = 0x0B#8) : takesFrame (decodeOp op) = true := by
  rcases h with rfl | rfl | rfl | rfl | rfl | rfl | rfl <;> rfl

theorem takesAddrStart_decodeOp (h : op = 0x05#8 ∨ op = 0x06#8 ∨ op = 0x07#8 ∨ op = 0x08#8) :
    takesAddrStart (decodeOp op) = true := by
  rcases h with rfl | rfl | rfl | rfl <;> rfl

theorem takesCount_decodeOp (h : op = 0x05#8 ∨ op = 0x06#8 ∨ op = 0x08#8) :
    takesCount (decodeOp op) = true := by
  rcases h with rfl | rfl | rfl <;> rfl

theorem takesValue_decodeOp (h : op = 0x07#8) : takesValue (decodeOp op) = true := by
  rw [h]; rfl

theorem takesValues_decodeOp (h : op = 0x08#8) : takesValues (decodeOp op) = true := by
  rw [h]; rfl

end Takes

/-- An accepted command's operands are within their widths, and its frame within P_MAX_FRAME_LEN. -/
structure Command.Fits (p : Params) (c : Command) : Prop where
  addrStart : takesAddrStart (decodeOp c.op) = true → c.addr < 256 ∧ c.start < 65536
  count : takesCount (decodeOp c.op) = true → c.count < 65536
  value : takesValue (decodeOp c.op) = true → c.value < 65536
  values : takesValues (decodeOp c.op) = true → c.byteCount < 256 ∧ ∀ v ∈ c.values, v < 65536
  frame : takesFrame (decodeOp c.op) = true → Params.fits p c.frame.length = true

theorem Command.fits_of_accepted {p : Params} {c : Command} (h : c.accepted p = true) : c.Fits p := by
  simp only [Command.accepted, Command.operandsFit, Command.frameFits, Bool.and_eq_true, Bool.or_eq_true,
    Bool.not_eq_true', decide_eq_true_eq, List.all_eq_true] at h
  obtain ⟨⟨⟨⟨haddr, hcount⟩, hvalue⟩, hvalues⟩, hframe⟩ := h
  refine ⟨fun t => ?_, fun t => ?_, fun t => ?_, fun t => ?_, fun t => ?_⟩
  · exact haddr.resolve_left (by simp [t])
  · exact hcount.resolve_left (by simp [t])
  · exact hvalue.resolve_left (by simp [t])
  · exact hvalues.resolve_left (by simp [t])
  · exact hframe.resolve_left (by simp [t])

/-- Settles O40: an accepted command has no such operand. -/
theorem unfitOperandIsRefused : Obligations.UnfitOperandIsRefused := by
  intro s c l p e h
  refine step_of_unfit p e ?_
  rw [← Bool.not_eq_true]
  intro w
  have fits := Command.fits_of_accepted w
  rcases h with ⟨ho, h⟩ | ⟨ho, h⟩ | ⟨ho, h⟩ | ⟨ho, m, hm, hl⟩
  · have h1 := fits.addrStart (takesAddrStart_decodeOp (by tauto))
    have h2 := fits.count (takesCount_decodeOp (by tauto))
    omega
  · have h1 := fits.addrStart (takesAddrStart_decodeOp (by tauto))
    have h2 := fits.value (takesValue_decodeOp ho)
    omega
  · obtain ⟨hbc, hvalues⟩ := fits.values (takesValues_decodeOp ho)
    have h1 := fits.addrStart (takesAddrStart_decodeOp (by tauto))
    have h2 := fits.count (takesCount_decodeOp (by tauto))
    rcases h with h | h | h | h | ⟨v, hv, h⟩
    · omega
    · omega
    · omega
    · omega
    · exact absurd (hvalues v hv) (Nat.not_lt.mpr h)
  · have h1 := fits.frame (takesFrame_decodeOp ho)
    simp [Params.fits, hm] at h1
    omega

theorem State.accept_addrStart {c : Command} (s : State) (h : takesAddrStart (decodeOp c.op) = true) :
    (s.accept c).bAddr = BitVec.ofNat 8 c.addr ∧ (s.accept c).bStart = BitVec.ofNat 16 c.start := by
  simp [State.accept, h]

theorem State.accept_bCount {c : Command} (s : State) (h : takesCount (decodeOp c.op) = true) :
    (s.accept c).bCount = BitVec.ofNat 16 c.count := by
  simp [State.accept, h]

theorem State.accept_bValue {c : Command} (s : State) (h : takesValue (decodeOp c.op) = true) :
    (s.accept c).bValue = BitVec.ofNat 16 c.value := by
  simp [State.accept, h]

theorem State.accept_values {c : Command} (s : State) (h : takesValues (decodeOp c.op) = true) :
    (s.accept c).bBc = BitVec.ofNat 8 c.byteCount
    ∧ (s.accept c).bValues = c.values.map (BitVec.ofNat 16) := by
  simp [State.accept, h]

theorem map_toNat_ofNat {w : Nat} {vs : List Nat} (h : ∀ v ∈ vs, v < 2 ^ w) :
    (vs.map (BitVec.ofNat w)).map BitVec.toNat = vs := by
  calc (vs.map (BitVec.ofNat w)).map BitVec.toNat
    _ = vs.map id := by
      rw [List.map_map]
      exact List.map_congr_left fun v hv => Nat.mod_eq_of_lt (h v hv)
    _ = vs := List.map_id vs

/-- Settles O41: an operand within its width is kept by the register that takes it. -/
theorem issueLatchesOperands : Obligations.IssueLatchesOperands := by
  intro s c w t
  have fits := Command.fits_of_accepted w
  refine ⟨rfl, rfl, rfl, rfl, rfl, rfl, rfl, rfl, rfl, fun ho => s.accept_inp c (takesFrame_decodeOp ho),
    fun ho => ?_, fun ho => ?_, fun ho => ?_, fun ho => ?_⟩
  · have ht := takesAddrStart_decodeOp ho
    obtain ⟨haddr, hstart⟩ := fits.addrStart ht
    rw [(s.accept_addrStart ht).1, (s.accept_addrStart ht).2]
    exact ⟨Nat.mod_eq_of_lt haddr, Nat.mod_eq_of_lt hstart⟩
  · have ht := takesCount_decodeOp ho
    rw [s.accept_bCount ht]
    exact Nat.mod_eq_of_lt (fits.count ht)
  · have ht := takesValue_decodeOp ho
    rw [s.accept_bValue ht]
    exact Nat.mod_eq_of_lt (fits.value ht)
  · have ht := takesValues_decodeOp ho
    obtain ⟨hbc, hvalues⟩ := fits.values ht
    rw [(s.accept_values ht).1, (s.accept_values ht).2]
    exact ⟨Nat.mod_eq_of_lt hbc, map_toNat_ofNat hvalues⟩

end Sys2Proof.Machine

/-! PROOFS. The engine is stateless across calls (10_state R20): what the host reads of an operation other
than PROC, as a function of its operands. -/

namespace Sys2Proof.Machine

/-- The outcome DRSP records (44_response_decoder R250). -/
def drspOutcome (o : ByteOrder) (F : List Byte) : DecoderOutcome :=
  match validateResponse F with
  | .invalid r => .frameInvalid r
  | .valid => if crcOk F then .decoded (decodeFields o F) else .checksumMismatch

/-- What the host reads after an operation other than PROC; `exec_reading` ties it to `exec`. -/
def operationReading (v : State) : Instr → Reading
  | .crc => .checksum (crc v.inp)
  | .vreq => .verdict (validateRequest v.inp)
  | .vrsp => .verdict (validateResponse v.inp)
  | .brhr => readingOf v.params (some (readRequestBytes 0x03#8 v.bAddr v.bStart v.bCount))
  | .brir => readingOf v.params (some (readRequestBytes 0x04#8 v.bAddr v.bStart v.bCount))
  | .bwsr => readingOf v.params (some (writeSingleBytes v.params.wsBuildFc v.cfgOrder v.bAddr v.bStart v.bValue))
  | .bwmr =>
    if bwmrPrecondition v.bBc v.bValues then
      readingOf v.params (some (writeMultipleBytes v.cfgOrder v.bAddr v.bStart v.bCount v.bBc v.bValues))
    else .refused
  | .drsp => .record (drspOutcome v.cfgOrder v.inp)
  | .dfld => .record (.fields (decodeFields v.cfgOrder v.inp))
  | .hex => .text (toHexString v.inp)
  | _ => .none

theorem emitFrame_reading {B : List Byte} {s t : State} (h : emitFrame B s = .next t) :
    t.reading = readingOf s.params (some B) := by
  rw [emitFrame_eq] at h
  injection h with h
  subst h
  by_cases hf : Params.fits s.params (sealed B).length = true
  · rw [if_pos hf, readingOf, if_pos hf]; rfl
  · rw [if_neg hf, readingOf, if_neg hf]; rfl

theorem execBwmr_reading {v t : State} (h : execBwmr v = .next t) :
    t.reading = operationReading v .bwmr := by
  unfold execBwmr at h
  unfold operationReading
  split_ifs at h ⊢ with hp
  · exact emitFrame_reading h
  · injection h with h
    subst h
    rfl

theorem execDrsp_reading {v t : State} (h : execDrsp v = .next t) :
    t.reading = .record (drspOutcome v.cfgOrder v.inp) := by
  unfold execDrsp at h
  unfold drspOutcome
  cases hv : validateResponse v.inp with
  | invalid r =>
    simp only [hv] at h
    cases h
    rfl
  | valid =>
    simp only [hv] at h
    split_ifs at h ⊢ <;> cases h <;> rfl

theorem exec_reading {i : Instr} {v t : State} (hs : i.space = .selector) (hi : endsOperation i = true)
    (h : exec i v = .next t) : t.reading = operationReading v i := by
  cases i
  case brhr => exact emitFrame_reading h
  case brir => exact emitFrame_reading h
  case bwsr => exact emitFrame_reading h
  case bwmr => exact execBwmr_reading h
  case drsp => exact execDrsp_reading h
  case crc => cases h; rfl
  case vreq => cases h; rfl
  case vrsp => cases h; rfl
  case dfld => cases h; rfl
  case hex => cases h; rfl
  case proc => cases hi
  case reservedOp => cases hi
  all_goals cases hs

/-- What is read depends on the operands that the operation takes, and those are the command's. -/
theorem operationReading_accept {s₁ s₂ : State} (c : Command) (hp : s₁.params = s₂.params) :
    operationReading (s₁.accept c) (decodeOp c.op) = operationReading (s₂.accept c) (decodeOp c.op) := by
  cases o : decodeOp c.op
  case brhr | brir =>
    have ta := congrArg takesAddrStart o
    have tc := congrArg takesCount o
    simp only [operationReading, State.accept_params, hp, s₁.accept_addrStart ta, s₂.accept_addrStart ta,
      s₁.accept_bCount tc, s₂.accept_bCount tc]
  case bwsr =>
    have ta := congrArg takesAddrStart o
    have tv := congrArg takesValue o
    simp only [operationReading, State.accept_params, State.accept_cfgOrder, hp, s₁.accept_addrStart ta,
      s₂.accept_addrStart ta, s₁.accept_bValue tv, s₂.accept_bValue tv]
  case bwmr =>
    have ta := congrArg takesAddrStart o
    have tc := congrArg takesCount o
    have tv := congrArg takesValues o
    simp only [operationReading, State.accept_params, State.accept_cfgOrder, hp, s₁.accept_addrStart ta,
      s₂.accept_addrStart ta, s₁.accept_bCount tc, s₂.accept_bCount tc, s₁.accept_values tv,
      s₂.accept_values tv]
  case crc | vreq | vrsp | drsp | dfld | hex =>
    have tf := congrArg takesFrame o
    simp only [operationReading, State.accept_cfgOrder, State.accept_inp c _ tf]
  all_goals rfl

theorem ite_space {p : Prop} [Decidable p] {i j : Instr} (hi : i.space = .selector) (hj : j.space = .selector) :
    (if p then i else j).space = .selector := by
  split
  · exact hi
  · exact hj

theorem decodeOp_space (op : Byte) : (decodeOp op).space = .selector := by
  unfold decodeOp
  iterate 11 refine ite_space rfl ?_
  rfl

theorem reading_ne_none {t : State} (h : t.resKind ≠ .none) : t.reading ≠ .none := by
  unfold State.reading
  cases hk : t.resKind <;> simp [hk] at h ⊢

/-- What the host reads after it has issued `c`, no PROC, in IDLE. -/
def commandReading (s : State) (c : Command) : Reading :=
  if endsOperation (decodeOp c.op) && c.accepted s.params then operationReading (s.accept c) (decodeOp c.op)
  else .refused

theorem commandReading_congr {s₁ s₂ : State} (c : Command) (hp : s₁.params = s₂.params) :
    commandReading s₁ c = commandReading s₂ c := by
  rw [commandReading, commandReading, hp, operationReading_accept c hp]

/-- Every command but PROC's ends in one step, with that reading. -/
theorem step_of_command {s : State} {c : Command} {l : List HostEvent} (p : s.phase = .idle)
    (e : s.host = .issue c :: l) (hc : decodeOp c.op ≠ .proc) :
    ∃ t, step s = .next t ∧ t.phase = .idle ∧ t.reading ≠ .none
      ∧ t.reading = commandReading (s.withHost l) c := by
  have refused (h : step s = .next (s.withHost l).refuse)
      (hr : (endsOperation (decodeOp c.op) && c.accepted s.params) = false) :
      ∃ t, step s = .next t ∧ t.phase = .idle ∧ t.reading ≠ .none
        ∧ t.reading = commandReading (s.withHost l) c := by
    refine ⟨_, h, p, nofun, ?_⟩
    rw [commandReading, State.withHost_params, hr]
    rfl
  rcases decodeOp_cases c.op with o | o | o
  · exact absurd o hc
  · cases w : c.accepted s.params with
    | false => exact refused (step_of_unfit p e w) (by simp [w])
    | true =>
      have hne : ∀ op, decodeOp c.op ≠ .reservedOp op := fun op h => by rw [h] at o; cases o
      obtain ⟨t, ht⟩ := exec_ends_next o ((s.withHost l).accept c)
      have hends := exec_ends o ht
      refine ⟨t, ?_, hends.phase, reading_ne_none hends.result, ?_⟩
      · rw [step_of_accepted p e w hne, start_outcome, ht]
      · rw [exec_reading (decodeOp_space c.op) o ht, commandReading, State.withHost_params, o, w]
        rfl
  · exact refused (step_of_reserved p e o) (by simp [o, endsOperation])

/-- Settles O54: `commandReading` depends on the state through the parameters alone. -/
theorem oneStepOperationsAreStateless : Obligations.OneStepOperationsAreStateless := by
  intro s₁ s₂ c l₁ l₂ p₁ p₂ hp e₁ e₂ hc
  obtain ⟨t₁, h₁, i₁, n₁, r₁⟩ := step_of_command p₁ e₁ hc
  obtain ⟨t₂, h₂, i₂, -, r₂⟩ := step_of_command p₂ e₂ hc
  have hr : commandReading (s₁.withHost l₁) c = commandReading (s₂.withHost l₂) c := commandReading_congr c hp
  exact ⟨t₁, t₂, h₁, h₂, i₁, i₂, r₁.trans (hr.trans r₂.symm), n₁⟩

end Sys2Proof.Machine

/-! PROOFS. PROC from its issue to its result (42_slave_processor R175): the plan of steps 1 to 4, the call it
makes and the frame it sends, one phase at a time. -/

namespace Sys2Proof.Machine

/-- The plan of the request that an engine holds. -/
def State.plan (u : State) : Plan := planOf u.params u.inp u.cfgDevAddr u.cfgTotal u.cfgOrder

theorem Keeps.plan {u t : State} (k : Keeps u t) : t.plan = u.plan := by
  have o := k.operands
  rw [State.plan, State.plan, k.params, o.inp, o.devAddr, o.total, o.order]

/-- The header of the request in IN is latched (10_state R29). -/
structure Header (u : State) : Prop where
  addr : u.lAddr = byteAt u.inp 0
  fc : u.lFc = byteAt u.inp 1
  bcast : u.lBcast = (byteAt u.inp 0 == 0#8)

/-- Where the plan of a request stands once its call is made or its outcome is fixed. -/
inductive Planned (t : State) : Plan → Prop where
  | silent (w : SilenceReason) (p : t.phase = .emit) (waits : t.pending = some (.suppress w))
      (req : t.capReq = none) : Planned t .silent
  | error (a fc code : Byte) (p : t.phase = .emit) (waits : t.pending = some (.error a fc code))
      (req : t.capReq = none) : Planned t (.error a fc code)
  | read (start count : Half) (p : t.phase = .capIO) (req : t.capReq = some (.read t.cfgBase start count))
      (h : Header t) (fc : byteAt t.inp 1 = 0x03#8 ∨ byteAt t.inp 1 = 0x04#8) (hc : t.lCount = count)
      (d : decodeRequest t.inp = .ok (requestFields t.inp)) : Planned t (.read start count)
  | write (start count : Half) (bytes : List Byte) (p : t.phase = .capIO)
      (req : t.capReq = some (.write t.cfgBase start count bytes)) (h : Header t)
      (fc : byteAt t.inp 1 = 0x06#8 ∨ byteAt t.inp 1 = 0x10#8)
      (d : decodeRequest t.inp = .ok (requestFields t.inp)) : Planned t (.write start count bytes)

theorem Planned.capReq {t : State} {plan : Plan} (h : Planned t plan) : t.capReq = plan.call t.cfgBase := by
  cases h <;> assumption

theorem Planned.capIO_iff {t : State} {plan : Plan} (h : Planned t plan) : t.phase = .capIO ↔ t.capReq.isSome := by
  cases h with
  | silent w p waits req => simp [p, req]
  | error a fc code p waits req => simp [p, req]
  | read start count p req => simp [p, req]
  | write start count bytes p req => simp [p, req]

section Plan

variable {pr : Params} {F : List Byte} {dev : Byte} {total : Half} {o : ByteOrder}

theorem planOf_of_invalid {r : Reason} (h : classifyRequest pr.policy F = .invalid r) :
    planOf pr F dev total o = .silent := by
  simp [planOf, h]

theorem planOf_of_unaddressed (h : classifyRequest pr.policy F = .valid ∨ classifyRequest pr.policy F = .unsupported)
    (h0 : byteAt F 0 ≠ 0#8) (hd : byteAt F 0 ≠ dev) : planOf pr F dev total o = .silent := by
  rcases h with h | h <;> simp [planOf, h, h0, hd]

theorem planOf_of_unsupported (h : classifyRequest pr.policy F = .unsupported)
    (ha : byteAt F 0 = 0#8 ∨ byteAt F 0 = dev) :
    planOf pr F dev total o = .error (byteAt F 0) (byteAt F 1) 0x01#8 := by
  have ha' : ¬ (byteAt F 0 ≠ 0#8 ∧ byteAt F 0 ≠ dev) := by tauto
  simp only [planOf, h, if_neg ha']

theorem planOf_of_read (h : classifyRequest pr.policy F = .valid)
    (ha : byteAt F 0 = 0#8 ∨ byteAt F 0 = dev) (fc : byteAt F 1 = 0x03#8 ∨ byteAt F 1 = 0x04#8) :
    planOf pr F dev total o =
      if total.toNat < (be16 (byteAt F 2) (byteAt F 3)).toNat + (be16 (byteAt F 4) (byteAt F 5)).toNat then
        .error (byteAt F 0) (byteAt F 1) 0x02#8
      else if byteAt F 0 = 0#8 then .silent
      else .read (be16 (byteAt F 2) (byteAt F 3)) (be16 (byteAt F 4) (byteAt F 5)) := by
  have ha' : ¬ (byteAt F 0 ≠ 0#8 ∧ byteAt F 0 ≠ dev) := by tauto
  have h6 : byteAt F 1 ≠ 0x06#8 := by rcases fc with fc | fc <;> simp [fc]
  have h10 : byteAt F 1 ≠ 0x10#8 := by rcases fc with fc | fc <;> simp [fc]
  simp only [planOf, h, if_neg ha', if_neg h6, if_neg h10]

theorem planOf_of_writeSingle (h : classifyRequest pr.policy F = .valid)
    (ha : byteAt F 0 = 0#8 ∨ byteAt F 0 = dev) (fc : byteAt F 1 = 0x06#8) :
    planOf pr F dev total o =
      .write (be16 (byteAt F 2) (byteAt F 3)) 1 (orderPayload o 1 [byteAt F 4, byteAt F 5]) := by
  have ha' : ¬ (byteAt F 0 ≠ 0#8 ∧ byteAt F 0 ≠ dev) := by tauto
  simp only [planOf, h, if_neg ha', if_pos fc]
  cases o <;> rfl

theorem planOf_of_writeMultiple (h : classifyRequest pr.policy F = .valid)
    (ha : byteAt F 0 = 0#8 ∨ byteAt F 0 = dev) (fc : byteAt F 1 = 0x10#8) :
    planOf pr F dev total o =
      if total.toNat < (be16 (byteAt F 2) (byteAt F 3)).toNat + wmRange pr.wmRangeCount (byteAt F 6) then
        .error (byteAt F 0) (byteAt F 1) 0x02#8
      else
        .write (be16 (byteAt F 2) (byteAt F 3)) (BitVec.ofNat 16 ((byteAt F 6).toNat / 2))
          (orderPayload o ((byteAt F 6).toNat / 2) (slice F 7 (7 + 2 * ((byteAt F 6).toNat / 2)))) := by
  have ha' : ¬ (byteAt F 0 ≠ 0#8 ∧ byteAt F 0 ≠ dev) := by tauto
  have h6 : byteAt F 1 ≠ 0x06#8 := by simp [fc]
  simp only [planOf, h, if_neg ha', if_neg h6, if_pos fc, orderPayload_eq]
  cases pr.wmRangeCount <;> rfl

end Plan

/-- PROC stands in DISPATCH with a request that steps 1 and 2 have let through. -/
structure Dispatching (u : State) : Prop where
  phase : u.phase = .dispatch
  header : Header u
  cls : classifyRequest u.params.policy u.inp = .valid ∨ classifyRequest u.params.policy u.inp = .unsupported
  addressed : byteAt u.inp 0 = 0#8 ∨ byteAt u.inp 0 = u.cfgDevAddr

/-- Steps 1 and 2 of R175. -/
theorem step_validate {u : State} {l : List HostEvent} (p : u.phase = .validate) (e : u.host = .quiet :: l) :
    ∃ t, step u = .next t ∧ Keeps (u.withHost l) t
      ∧ ((Planned t .silent ∧ u.plan = .silent) ∨ Dispatching t) := by
  have hs : step u = procValidate (u.withHost l) := by
    rw [step_of_current (.quiet l e) (by simp [p]) (i := .proc) (by simp [State.current, p])]
    exact exec_proc_of_validate p
  rw [hs]
  rcases procValidate_cases (u.withHost l) with ⟨r, hc, e⟩ | ⟨hc, h0, hd, e⟩ | ⟨hc, ha, e⟩ <;> rw [e]
  · exact ⟨_, rfl, by repeat' constructor, .inl ⟨.silent _ rfl rfl rfl, planOf_of_invalid hc⟩⟩
  · exact ⟨_, rfl, by repeat' constructor, .inl ⟨.silent _ rfl rfl rfl, planOf_of_unaddressed hc h0 hd⟩⟩
  · exact ⟨_, rfl, by repeat' constructor, .inr ⟨rfl, ⟨rfl, rfl, rfl⟩, hc, ha⟩⟩

/-- Steps 3 and 4 of R175: the row of the request follows the plan. -/
theorem exec_dispatch {u : State} (h : Dispatching u) :
    ∃ t, exec (requestFields u.inp) u = .next t ∧ Keeps u t ∧ Planned t u.plan := by
  have d := decodeRequest_of_class h.cls
  have hcls (hk : KnownRequestFc u.inp) : classifyRequest u.params.policy u.inp = .valid :=
    h.cls.resolve_right fun hu => ((classifyRequest_unsupported_iff _ _).mp hu).2.1 hk
  rcases dispatch_exec h.phase d with ⟨fc, e⟩ | ⟨fc, e⟩ | ⟨fc, e⟩ | ⟨fc, e⟩ <;> rw [e]
  · rw [State.plan, planOf_of_read (hcls (fc.elim .inl fun h => .inr (.inl h))) h.addressed fc]
    rcases readDispatch_cases (byteAt u.inp 0) (byteAt u.inp 1) (be16 (byteAt u.inp 2) (byteAt u.inp 3))
        (be16 (byteAt u.inp 4) (byteAt u.inp 5)) u with ⟨hr, e⟩ | ⟨hr, ha, e⟩ | ⟨hr, ha, e⟩ <;> rw [e]
    · rw [if_pos hr]
      exact ⟨_, rfl, by repeat' constructor, .error _ _ _ rfl rfl rfl⟩
    · rw [if_neg (Nat.not_lt.mpr hr), if_pos ha]
      exact ⟨_, rfl, by repeat' constructor, .silent _ rfl rfl rfl⟩
    · rw [if_neg (Nat.not_lt.mpr hr), if_neg ha]
      exact ⟨_, rfl, by repeat' constructor,
        .read _ _ rfl rfl ⟨h.header.addr, h.header.fc, h.header.bcast⟩ fc rfl d⟩
  · rw [State.plan, planOf_of_writeSingle (hcls (.inr (.inr (.inl fc)))) h.addressed fc]
    exact ⟨_, rfl, by repeat' constructor,
      .write _ _ _ rfl rfl ⟨h.header.addr, h.header.fc, h.header.bcast⟩ (.inl fc) d⟩
  · rw [State.plan, planOf_of_writeMultiple (hcls (.inr (.inr (.inr fc)))) h.addressed fc]
    rcases writeMultipleDispatch_cases (byteAt u.inp 0) (be16 (byteAt u.inp 2) (byteAt u.inp 3))
        (byteAt u.inp 6) (slice u.inp 7 (7 + (byteAt u.inp 6).toNat)) u with ⟨hr, e⟩ | ⟨hr, e⟩ <;> rw [e]
    · rw [if_pos hr, fc]
      exact ⟨_, rfl, by repeat' constructor, .error _ _ _ rfl rfl rfl⟩
    · rw [if_neg (Nat.not_lt.mpr hr), take_slice _ (by omega)]
      exact ⟨_, rfl, by repeat' constructor,
        .write _ _ _ rfl rfl ⟨h.header.addr, h.header.fc, h.header.bcast⟩ (.inr fc) d⟩
  · have hu : classifyRequest u.params.policy u.inp = .unsupported := by
      refine h.cls.resolve_left fun hv => ?_
      have hk := (knownRequestFc_iff _).mp ((classifyRequest_valid_iff _ _).mp hv).1.known
      rw [fc] at hk
      cases hk
    rw [State.plan, planOf_of_unsupported hu h.addressed]
    exact ⟨_, rfl, by repeat' constructor, .error _ _ _ rfl rfl rfl⟩

theorem step_dispatch {u : State} {l : List HostEvent} (h : Dispatching u) (e : u.host = .quiet :: l) :
    ∃ t, step u = .next t ∧ Keeps (u.withHost l) t ∧ Planned t u.plan := by
  have d := decodeRequest_of_class h.cls
  rw [step_of_current (.quiet l e) (by simp [h.phase]) (current_of_decode (.inl h.phase) d)]
  exact exec_dispatch (u := u.withHost l)
    ⟨h.phase, ⟨h.header.addr, h.header.fc, h.header.bcast⟩, h.cls, h.addressed⟩

/-- The bytes of a waiting outcome, `none` when nothing is to be sent. -/
def outcomeBytes : Pending → Option (List Byte)
  | .respond R => some R
  | .error a fc code => some [a, fc ||| 0x80#8, code]
  | .suppress _ => none
  | .decode => none

theorem sentBytes_read_of_code {a : CapAnswer} (hc : a.code ≠ 0) (F : List Byte) (o : ByteOrder)
    (start count : Half) :
    sentBytes F o a (.read start count) = some [byteAt F 0, byteAt F 1 ||| 0x80#8, BitVec.ofNat 8 a.code] := by
  simp [sentBytes, hc]

theorem sentBytes_read {a : CapAnswer} (hc : a.code = 0) (F : List Byte) (o : ByteOrder) (start count : Half) :
    sentBytes F o a (.read start count)
      = some ([byteAt F 0, byteAt F 1, BitVec.ofNat 8 (2 * count.toNat)] ++ orderPayload o count.toNat a.bytes) := by
  cases o <;> simp [sentBytes, hc]

theorem exec_read_of_capIO {u : State} (p : u.phase = .capIO)
    (fc : byteAt u.inp 1 = 0x03#8 ∨ byteAt u.inp 1 = 0x04#8) : exec (requestFields u.inp) u = readResume u := by
  rcases fc with fc | fc
  · simp [requestFields, fc, exec, execReqReadHolding, inDispatch_of_capIO _ _ p]
  · simp [requestFields, fc, exec, execReqReadInput, inDispatch_of_capIO _ _ p]

theorem exec_write_of_capIO {u : State} (p : u.phase = .capIO)
    (fc : byteAt u.inp 1 = 0x06#8 ∨ byteAt u.inp 1 = 0x10#8) : exec (requestFields u.inp) u = writeResume u := by
  rcases fc with fc | fc
  · simp [requestFields, fc, exec, execReqWriteSingle, inDispatch_of_capIO _ _ p]
  · simp [requestFields, fc, exec, execReqWriteMultiple, inDispatch_of_capIO _ _ p]

/-- PROC has fixed the outcome that sends these bytes, and only EMIT is left. -/
structure Concluded (t : State) (bytes : Option (List Byte)) : Prop where
  phase : t.phase = .emit
  req : t.capReq = none
  waits : ∃ o, t.pending = some o ∧ o ≠ .decode ∧ outcomeBytes o = bytes

/-- Step 5 of R175 for a read that keeps its contract. -/
theorem readResume_answer {u : State} {a : CapAnswer} (h : Header u) (ans : u.capAns = some a) (start : Half)
    (k : keepsContract a (.read start u.lCount)) :
    ∃ t, readResume u = .next t ∧ Keeps u t
      ∧ Concluded t (sentBytes u.inp u.cfgOrder a (.read start u.lCount)) := by
  rcases readResume_cases u with ⟨ans', -⟩ | ⟨a', ans', hr⟩
  · cases ans'.symm.trans ans
  obtain rfl : a' = a := Option.some.inj (ans'.symm.trans ans)
  rcases hr with ⟨hb, -⟩ | ⟨-, hc, e⟩ | ⟨-, hc, e⟩
  · rcases (CapAnswer.breaksReadContract_iff _ _).mp hb with hb | ⟨hc, hl⟩
    · exact absurd k.1 (Nat.not_lt.mpr hb)
    · exact absurd (k.2 hc) hl
  · refine ⟨_, e, by repeat' constructor, rfl, rfl, _, rfl, by simp, ?_⟩
    rw [sentBytes_read_of_code hc, outcomeBytes, h.addr, h.fc]
  · refine ⟨_, e, by repeat' constructor, rfl, rfl, _, rfl, by simp, ?_⟩
    rw [sentBytes_read hc, outcomeBytes, h.addr, h.fc]

/-- Step 5 of R175 for a write that keeps its contract. -/
theorem writeResume_answer {u : State} {a : CapAnswer} (h : Header u) (ans : u.capAns = some a)
    (start count : Half) (bytes : List Byte) (k : keepsContract a (.write start count bytes)) :
    ∃ t, writeResume u = .next t ∧ Keeps u t
      ∧ Concluded t (sentBytes u.inp u.cfgOrder a (.write start count bytes)) := by
  have hb := h.bcast
  rcases writeResume_cases u with ⟨ans', -⟩ | ⟨a', ans', hr⟩
  · cases ans'.symm.trans ans
  obtain rfl : a' = a := Option.some.inj (ans'.symm.trans ans)
  rcases hr with ⟨hbig, -⟩ | ⟨-, hl, e⟩ | ⟨-, hl, hc, e⟩ | ⟨hl, hc, e⟩
  · exact absurd (show a'.code < 256 from k) (Nat.not_lt.mpr hbig)
  · refine ⟨_, e, by repeat' constructor, rfl, rfl, _, rfl, by simp, ?_⟩
    have h0 : byteAt u.inp 0 = 0#8 := by simpa [hl] using hb
    simp [sentBytes, outcomeBytes, h0]
  · refine ⟨_, e, by repeat' constructor, rfl, rfl, _, rfl, by simp, ?_⟩
    have h0 : byteAt u.inp 0 ≠ 0#8 := by simpa [hl] using hb
    simp [sentBytes, outcomeBytes, h0, hc, h.addr, h.fc]
  · refine ⟨_, e, by repeat' constructor, rfl, rfl, _, rfl, by simp, ?_⟩
    have h0 : byteAt u.inp 0 ≠ 0#8 := by simpa [hl] using hb
    simp [sentBytes, outcomeBytes, h0, hc]

theorem Keeps.of_answered {u t : State} {a : CapAnswer} (k : Keeps (u.answered a) t) : Keeps u t :=
  ⟨k.params, k.host, k.operands.of_source (State.answered_toRegs u a), k.resKind, k.resFrame⟩

/-- Step 5 of R175: the answer is handed to the call in flight, and is not read when there is none. -/
theorem step_answer {u : State} {l : List HostEvent} {a : CapAnswer} {plan : Plan} (h : Planned u plan)
    (e : u.host = .answer a :: l) (k : keepsContract a plan) :
    ∃ t, step u = .next t ∧ Keeps (u.withHost l) t ∧ Concluded t (sentBytes u.inp u.cfgOrder a plan) := by
  have hstep (p : u.phase = .capIO) (d : decodeRequest u.inp = .ok (requestFields u.inp)) :=
    step_of_current (.answer a l e p) (by simp [p]) (current_of_decode (.inr p) d)
  cases h with
  | silent w p waits req =>
    exact ⟨_, step_of_unasked_answer (by simp [p]) e, by repeat' constructor, p, req, _, waits, by simp, rfl⟩
  | error ad fc code p waits req =>
    exact ⟨_, step_of_unasked_answer (by simp [p]) e, by repeat' constructor, p, req, _, waits, by simp, rfl⟩
  | read start count p req hd fc hc d =>
    subst hc
    have hexec := exec_read_of_capIO (u := (u.withHost l).answered a) p fc
    obtain ⟨t, ht, hk, hcon⟩ :=
      readResume_answer (u := (u.withHost l).answered a) ⟨hd.addr, hd.fc, hd.bcast⟩ rfl start k
    exact ⟨t, (hstep p d).trans (hexec.trans ht), hk.of_answered, hcon⟩
  | write start count bytes p req hd fc d =>
    have hexec := exec_write_of_capIO (u := (u.withHost l).answered a) p fc
    obtain ⟨t, ht, hk, hcon⟩ :=
      writeResume_answer (u := (u.withHost l).answered a) ⟨hd.addr, hd.fc, hd.bcast⟩ rfl start count bytes k
    exact ⟨t, (hstep p d).trans (hexec.trans ht), hk.of_answered, hcon⟩

theorem exec_emit_reading {u t : State} {i : Instr} {o : Pending} (p : u.phase = .emit) (hp : u.pending = some o)
    (ho : o ≠ .decode) (n : u.current = some i) (h : exec i u = .next t) :
    t.reading = readingOf u.params (outcomeBytes o) := by
  rw [current_of_emit p, hp] at n
  cases o with
  | respond R =>
    cases n
    rw [exec_proc_of_emit p, procEmit, hp] at h
    exact emitFrame_reading h
  | error a fc code =>
    cases n
    exact emitFrame_reading ((exec_errorFrameEmit a fc code u).symm.trans h)
  | suppress w =>
    cases n
    rw [exec_proc_of_emit p, procEmit, hp] at h
    cases h
    rfl
  | decode => exact absurd rfl ho

/-- Step 6 of R175: the outcome is sealed and written, or nothing is. -/
theorem step_emit {u : State} {l : List HostEvent} {bytes : Option (List Byte)} (h : Concluded u bytes)
    (e : u.host = .quiet :: l) :
    ∃ t, step u = .next t ∧ Ends (u.withHost l) t ∧ t.reading = readingOf u.params bytes := by
  obtain ⟨p, -, o, hp, ho, rfl⟩ := h
  have pl : (u.withHost l).phase = .emit := p
  obtain ⟨i, n⟩ : ∃ i, (u.withHost l).current = some i := by
    rw [current_of_emit pl, State.withHost_pending, hp]
    cases o with
    | decode => exact absurd rfl ho
    | _ => exact ⟨_, rfl⟩
  obtain ⟨t, ht, hends⟩ := emit_ends pl n
  rw [step_of_current (.quiet l e) (by simp [p]) n]
  exact ⟨t, ht, hends, exec_emit_reading (u := u.withHost l) p hp ho n ht⟩

/-- The engine holds the operands of `c` and the parameters `pr`. -/
structure Serves (pr : Params) (c : Command) (u : State) : Prop where
  params : u.params = pr
  inp : u.inp = c.frame
  devAddr : u.cfgDevAddr = c.devAddr
  total : u.cfgTotal = c.total
  order : u.cfgOrder = c.order
  base : u.cfgBase = c.base

theorem Serves.plan {pr : Params} {c : Command} {u : State} (h : Serves pr c u) :
    u.plan = planOf pr c.frame c.devAddr c.total c.order := by
  rw [State.plan, h.params, h.inp, h.devAddr, h.total, h.order]

theorem Serves.of_same {pr : Params} {c : Command} {u t : State} {l : List HostEvent} (h : Serves pr c u)
    (params : t.params = u.params) (k : SameOperands (u.withHost l) t) : Serves pr c t :=
  ⟨params.trans h.params, k.inp.trans h.inp, k.devAddr.trans h.devAddr, k.total.trans h.total,
    k.order.trans h.order, k.base.trans h.base⟩

/-- PROC is issued and waits in VALIDATE. -/
theorem step_enter {s : State} {c : Command} {l : List HostEvent} (p : s.phase = .idle) (op : c.op = 0x04#8)
    (w : c.accepted s.params = true) (e : s.host = .issue c :: l) :
    ∃ u, step s = .next u ∧ u.phase = .validate ∧ u.host = l ∧ Serves s.params c u := by
  have o : decodeOp c.op = .proc := by rw [op]; rfl
  refine ⟨{ (s.withHost l).accept c with phase := .validate }, ?_, rfl, rfl, rfl, ?_, rfl, rfl, rfl, rfl⟩
  · rw [step_of_accepted p e w (by simp [o]), start_outcome, o]
    exact procEntersValidate _ p
  · exact State.accept_inp c _ (by rw [o]; rfl)

/-- PROC three steps after its issue: its plan is on its way, or it has ended with NO_RESPONSE in VALIDATE. -/
theorem proc_three_steps {s : State} {c : Command} {l : List HostEvent} (p : s.phase = .idle)
    (op : c.op = 0x04#8) (w : c.accepted s.params = true) (e : s.host = .issue c :: .quiet :: .quiet :: l) :
    ∃ t : State,
      (∀ n, Host.Core.run Sys2Proof.core (n + 3) s
        = (Host.Core.run Sys2Proof.core n t : Host.Outcome State Fault Refusal))
      ∧ t.host = l ∧ Serves s.params c t
      ∧ (Planned t t.plan
        ∨ (t.plan = .silent ∧ t.phase = .idle ∧ t.capReq = none ∧ t.reading = .noResponse)) := by
  obtain ⟨u, hu, pu, eu, su⟩ := step_enter p op w e
  obtain ⟨v, hv, kv, hcase⟩ := step_validate pu eu
  have sv : Serves s.params c v := su.of_same kv.params kv.operands
  have hrun {t : State} (ht : step v = .next t) (n : Nat) :
      Host.Core.run Sys2Proof.core (n + 3) s
        = (Host.Core.run Sys2Proof.core n t : Host.Outcome State Fault Refusal) := by
    rw [run_succ_of_step (n + 2) hu, run_succ_of_step (n + 1) hv, run_succ_of_step n ht]
  rcases hcase with ⟨⟨w, pv, waits, req⟩, silent⟩ | hd
  · obtain ⟨t, ht, ends, reading⟩ := step_emit ⟨pv, req, _, waits, by simp, rfl⟩ kv.host
    have st := sv.of_same ends.params ends.operands
    exact ⟨t, hrun ht, ends.host, st, .inr ⟨st.plan.trans (su.plan.symm.trans silent), ends.phase,
      ends.capReq.trans req, reading⟩⟩
  · obtain ⟨t, ht, kt, planned⟩ := step_dispatch hd kv.host
    have st := sv.of_same kt.params kt.operands
    exact ⟨t, hrun ht, kt.host, st, .inl (st.plan.trans sv.plan.symm ▸ planned)⟩

/-- Settles O49: a plan on its way has made its call, and one that ended made none. -/
theorem processCallsAsTheRuleSays : Obligations.ProcessCallsAsTheRuleSays := by
  intro s c l p op w e
  obtain ⟨t, hrun, host, serves, h⟩ := proc_three_steps p op w e
  refine ⟨t, hrun 0, ?_, ?_, host⟩ <;> rcases h with h | ⟨silent, idle, req, -⟩
  · rw [h.capReq, serves.plan, serves.base]
  · rw [req, ← serves.plan, silent]; rfl
  · exact h.capIO_iff
  · simp [idle, req]

/-- Settles O48: after `proc_three_steps` come the answer and EMIT; a PROC that has ended takes neither. -/
theorem processAnswersAsTheRuleSays : Obligations.ProcessAnswersAsTheRuleSays := by
  intro s c a l p op w e plan k
  obtain ⟨t, hrun, host, serves, h⟩ := proc_three_steps p op w e
  have hplan : t.plan = plan := serves.plan
  replace host : t.host = .answer a :: .quiet :: l := host
  rw [hplan] at h
  rcases h with h | ⟨silent, idle, req, reading⟩
  · obtain ⟨v, hv, kv, concluded⟩ := step_answer h host k
    obtain ⟨x, hx, ends, reading⟩ := step_emit concluded kv.host
    refine ⟨x, ?_, ends.phase, ends.host, ends.params.trans (kv.params.trans serves.params),
      ends.capReq.trans concluded.req, ?_⟩
    · rw [hrun 2, run_succ_of_step 1 hv, run_succ_of_step 0 hx]
      rfl
    · rw [reading, kv.params, State.withHost_params, serves.params, serves.inp, serves.order]
  · have hv := step_of_unasked_answer (by simp [idle]) host
    have hx := step_of_idle_quiet (s := t.withHost (.quiet :: l)) idle rfl
    refine ⟨(t.withHost (.quiet :: l)).withHost l, ?_, idle, rfl, serves.params, req, ?_⟩
    · rw [hrun 2, run_succ_of_step 1 hv, run_succ_of_step 0 hx]
      rfl
    · rw [silent]
      exact reading

end Sys2Proof.Machine
